-- ==== Sys2Proof/Word.lean ====
section
/-! DEFINITION. The word types of the machine (00_scope.md R6, R8, R9): plain bit vectors, bit 0 the least
significant, arithmetic modulo 2^width. -/

namespace Sys2Proof

/-- A 16-bit word: a register, `pc`, a byte address, an instruction word (R6). -/
abbrev Word := BitVec 16

/-- A byte of memory (R6). -/
abbrev Byte := BitVec 8

/-- A register id, `x[0]` to `x[7]` (10_state.md R20): three bits, so every id is in range. -/
abbrev RegId := BitVec 3

/-- A word address, 0 to 0x7FFF (20_memory.md R50, R51). -/
abbrev WordAddr := BitVec 15

end Sys2Proof
end

