-- ==== Sys2Proof/Machine/Bits.lean ====
section
/-! DEFINITION. The fixed-width bit container (40_bit_primitives.md R100 to R113). A container of width `w` is a
`BitVec w`: the width is in the type, so an assignment between widths is a type error (R102, R110, R111). The bounds on
widths and positions (R100, R103, R105, R108) are premises that every operation takes, discharged by `decide` where they
are constants: an operation outside its bounds is ill-typed and cannot be written (D31, U17; log 18). -/

namespace Sys2Proof.Machine.Bits

/-- The widths a container has: 1 to 64 (R100; the lower bound is the spec's reading). -/
abbrev WidthOk (w : Nat) : Prop := 1 ≤ w ∧ w ≤ 64

/-- `i` is a bit position of a container of width `w`: `i < w`, the width itself at most 64 (R100, R105, R108). -/
abbrev IndexOk (w i : Nat) : Prop := i < w ∧ w ≤ 64

/-- `hi` and `lo` bound a sub-range of a container of width `w`: `lo <= hi < w` (R103). -/
abbrev RangeOk (w hi lo : Nat) : Prop := lo ≤ hi ∧ IndexOk w hi

/-- A bit container of an admitted width (R100). -/
abbrev Container (w : Nat) (_h : WidthOk w := by decide) : Type := BitVec w

/-- `make(w, n)`: the integer `n` masked to `w` bits (R101). -/
def make (w n : Nat) (h : WidthOk w := by decide) : Container w h := BitVec.ofNat w n

/-- `x.range(hi, lo)` read, written `x[hi:lo]` (R103). -/
def range {w : Nat} (x : BitVec w) (hi lo : Nat) (_h : RangeOk w hi lo := by decide) : BitVec (hi - lo + 1) :=
  x.extractLsb hi lo

/-- The ones of bits `lo` to `hi` in a container of width `w` (R104). -/
def rangeMask (w hi lo : Nat) (_h : RangeOk w hi lo := by decide) : BitVec w :=
  ((BitVec.allOnes (hi - lo + 1)).setWidth w) <<< lo

/-- `x.range(hi, lo) <- y`: bits `lo` to `hi` become those of `y`, every other bit stays (R104). -/
def setRange {w : Nat} (x : BitVec w) (hi lo : Nat) (y : BitVec (hi - lo + 1)) (h : RangeOk w hi lo := by decide) :
    BitVec w :=
  (x &&& ~~~(rangeMask w hi lo h)) ||| ((y.setWidth w) <<< lo)

/-- `x.sign_extend(b)`: bits above `b` become copies of bit `b`, the width stays (R105). -/
def signExtendFrom {w : Nat} (x : BitVec w) (b : Nat) (_h : IndexOk w b := by decide) : BitVec w :=
  (x.setWidth (b + 1)).signExtend w

/-- `x.zero_extend(b)`: bits above `b` become 0, the width stays (R106). -/
def zeroExtendFrom {w : Nat} (x : BitVec w) (b : Nat) (_h : IndexOk w b := by decide) : BitVec w :=
  (x.setWidth (b + 1)).setWidth w

/-- `x.to_number()`: the value itself (R107); in a model with unbounded naturals nothing is narrowed. -/
def toNumber {w : Nat} (x : BitVec w) (_h : WidthOk w := by decide) : Nat := x.toNat

/-- The width of the native integer `to_number` returns in the source: the least of 8, 16, 32, 64 that holds `w`
bits (R107). -/
def nativeWidth (w : Nat) (_h : WidthOk w := by decide) : Nat :=
  if w ≤ 8 then 8 else if w ≤ 16 then 16 else if w ≤ 32 then 32 else 64

/-- `x[i]` read (R108). -/
def bit {w : Nat} (x : BitVec w) (i : Nat) (_h : IndexOk w i := by decide) : Bool := x.getLsbD i

/-- `x[i] <- b` (R108): the range write of one bit. -/
def setBit {w : Nat} (x : BitVec w) (i : Nat) (b : Bool) (_h : IndexOk w i := by decide) : BitVec w :=
  (x &&& ~~~(BitVec.twoPow w i)) ||| (if b then BitVec.twoPow w i else 0)

/-- `sext_N(v)` into 16 bits (00_scope.md R10), `N` at most 16. -/
def sext {n : Nat} (v : BitVec n) (_h : 1 ≤ n ∧ n ≤ 16 := by decide) : Word := v.signExtend 16

/-- `zext_N(v)` into 16 bits (00_scope.md R10), `N` at most 16. -/
def zext {n : Nat} (v : BitVec n) (_h : 1 ≤ n ∧ n ≤ 16 := by decide) : Word := v.setWidth 16

/-- The optional left shift by one of an address operand, after extension, modulo 2^16 (45_stage_agex.md R183). -/
def timesTwo (v : Word) : Word := v <<< 1

end Sys2Proof.Machine.Bits
end

