-- ==== Sys2Proof/Machine/Fields.lean ====
section
/-! DEFINITION. The fields of an instruction word, each at its place (30_encoding.md R81, R83, R84). -/

namespace Sys2Proof.Machine

open Bits

/-- `opcode = IR[15:12]` (R83). -/
def fieldOpcode (ir : Word) : BitVec 4 := range ir 15 12

/-- `IR[11:9]`: DR, or SR of a store (R83). -/
def fieldDR (ir : Word) : RegId := range ir 11 9

/-- `IR[8:6]`: SR1, or BaseR (R83). -/
def fieldSR1 (ir : Word) : RegId := range ir 8 6

/-- `IR[2:0]`: SR2 of a register operate (R83). -/
def fieldSR2 (ir : Word) : RegId := range ir 2 0

/-- `IR[4:0]` (R84). -/
def fieldImm5 (ir : Word) : BitVec 5 := range ir 4 0

/-- `IR[5:0]` (R84). -/
def fieldOffset6 (ir : Word) : BitVec 6 := range ir 5 0

/-- `IR[8:0]` (R84). -/
def fieldPcOffset9 (ir : Word) : BitVec 9 := range ir 8 0

/-- `IR[10:0]` (R84). -/
def fieldPcOffset11 (ir : Word) : BitVec 11 := range ir 10 0

/-- `IR[7:0]` (R84). -/
def fieldTrapvect8 (ir : Word) : BitVec 8 := range ir 7 0

/-- `IR[3:0]` (R84). -/
def fieldAmount4 (ir : Word) : BitVec 4 := range ir 3 0

/-- `IR[15:11]`, the high part of the control-store row (41_control_store.md R121). -/
def fieldRowHigh (ir : Word) : BitVec 5 := range ir 15 11

end Sys2Proof.Machine
end

