-- ==== Sys2Proof/Syntax.lean ====
section
/-! DEFINITION. The instructions, one constructor for each row of spec/opcode_table.json (30_encoding.md R85, R88).
The four alias rows (NOT, NOP, RET, HALT) have constructors of their own; WellFormed.lean says which operands
belong to the narrower row (log 10). -/

namespace Sys2Proof

/-- One LC-3b instruction with its operands; the bits the decoder drops (R90; log 11) are no operands. -/
inductive Instr where
  /-- `ADD DR, SR1, SR2` (48_isa_operate.md R251). -/
  | addReg (dr sr1 sr2 : RegId)
  /-- `ADD DR, SR1, imm5` (R252). -/
  | addImm (dr sr1 : RegId) (imm5 : BitVec 5)
  /-- `AND DR, SR1, SR2` (R253). -/
  | andReg (dr sr1 sr2 : RegId)
  /-- `AND DR, SR1, imm5` (R254). -/
  | andImm (dr sr1 : RegId) (imm5 : BitVec 5)
  /-- `XOR DR, SR1, SR2` (R255). -/
  | xorReg (dr sr1 sr2 : RegId)
  /-- `XOR DR, SR1, imm5` (R256); with imm5 = 11111 the word is NOT's. -/
  | xorImm (dr sr1 : RegId) (imm5 : BitVec 5)
  /-- `NOT DR, SR` (R257). -/
  | notReg (dr sr : RegId)
  /-- `LSHF DR, SR, amount4` (R258). -/
  | lshf (dr sr : RegId) (amount4 : BitVec 4)
  /-- `RSHFL DR, SR, amount4` (R259). -/
  | rshfl (dr sr : RegId) (amount4 : BitVec 4)
  /-- `RSHFA DR, SR, amount4` (R260). -/
  | rshfa (dr sr : RegId) (amount4 : BitVec 4)
  /-- `LEA DR, label` (R261). -/
  | lea (dr : RegId) (pcOffset9 : BitVec 9)
  /-- `LDB DR, BaseR, boffset6` (49_isa_memory_control.md R271). -/
  | ldb (dr baseR : RegId) (boffset6 : BitVec 6)
  /-- `LDW DR, BaseR, offset6` (R272). -/
  | ldw (dr baseR : RegId) (offset6 : BitVec 6)
  /-- `STB SR, BaseR, boffset6` (R273). -/
  | stb (sr baseR : RegId) (boffset6 : BitVec 6)
  /-- `STW SR, BaseR, offset6` (R274). -/
  | stw (sr baseR : RegId) (offset6 : BitVec 6)
  /-- `BR[n][z][p] label` (R275); with mask 000 and offset 0 the word is NOP's. -/
  | br (n z p : Bool) (pcOffset9 : BitVec 9)
  /-- `NOP`, the word 0x0000 (R276). -/
  | nop
  /-- `JMP BaseR` (R277); with BaseR = 7 the word is RET's. -/
  | jmp (baseR : RegId)
  /-- `RET` (R278). -/
  | ret
  /-- `JSR label` (R279). -/
  | jsr (pcOffset11 : BitVec 11)
  /-- `JSRR BaseR` (R280). -/
  | jsrr (baseR : RegId)
  /-- `TRAP trapvect8` (R282); with vector 0x25 the word is HALT's. -/
  | trap (trapvect8 : BitVec 8)
  /-- `HALT` (R283). -/
  | halt
  /-- `RTI`, opcode 1000 (R284). -/
  | rti
  /-- The reserved opcode 1010 (R285). -/
  | reserved1010
  /-- The reserved opcode 1011 (R285). -/
  | reserved1011
  deriving DecidableEq, Repr

end Sys2Proof
end

