-- ==== Sys2Proof/WellFormed.lean ====
section
/-! DEFINITION. Which terms of `Instr` are an instruction's own name: an operand that belongs to the narrower alias row
of the opcode table (30_encoding.md R87, R94) is ill-formed under the wider row's constructor (log 10). -/

namespace Sys2Proof

/-- Every operand value an encoding admits is well-formed, but for the operands that a narrower row names. -/
def Instr.wellFormed : Instr → Bool
  | .addReg _ _ _ => true
  | .addImm _ _ _ => true
  | .andReg _ _ _ => true
  | .andImm _ _ _ => true
  | .xorReg _ _ _ => true
  | .xorImm _ _ imm5 => imm5 != 0b11111#5
  | .notReg _ _ => true
  | .lshf _ _ _ => true
  | .rshfl _ _ _ => true
  | .rshfa _ _ _ => true
  | .lea _ _ => true
  | .ldb _ _ _ => true
  | .ldw _ _ _ => true
  | .stb _ _ _ => true
  | .stw _ _ _ => true
  | .br n z p pcOffset9 => n || z || p || pcOffset9 != 0#9
  | .nop => true
  | .jmp baseR => baseR != 7#3
  | .ret => true
  | .jsr _ => true
  | .jsrr _ => true
  | .trap trapvect8 => trapvect8 != 0x25#8
  | .halt => true
  | .rti => true
  | .reserved1010 => true
  | .reserved1011 => true

end Sys2Proof
end

