-- ==== Sys2Proof/Decode.lean ====
section
/-! DEFINITION. The decoder, total on any bytes, and the encoder (30_encoding.md R80, R85 to R91). Every 16-bit word is an
instruction (R89); only a list of fewer than two bytes is rejected, by name (log 11). -/

namespace Sys2Proof

open Machine Machine.Bits

/-- Why a list of bytes is no instruction. -/
inductive DecodeError where
  /-- Fewer bytes than the one instruction word (R80): safe, nothing is executed. -/
  | truncated
  deriving DecidableEq, Repr

/-- The instruction of a word: opcode IR[15:12], split by IR[5], IR[11] or IR[5:4] (R85), the narrower alias row
first (R87). The bits of `ignoredBits` are dropped (R90; log 11). -/
def decodeWord (w : Word) : Instr :=
  let op := fieldOpcode w
  if op = 0b0000#4 then
    if w = 0x0000#16 then .nop
    else .br (bit w 11) (bit w 10) (bit w 9) (fieldPcOffset9 w)
  else if op = 0b0001#4 then
    if bit w 5 then .addImm (fieldDR w) (fieldSR1 w) (fieldImm5 w)
    else .addReg (fieldDR w) (fieldSR1 w) (fieldSR2 w)
  else if op = 0b0010#4 then .ldb (fieldDR w) (fieldSR1 w) (fieldOffset6 w)
  else if op = 0b0011#4 then .stb (fieldDR w) (fieldSR1 w) (fieldOffset6 w)
  else if op = 0b0100#4 then
    if bit w 11 then .jsr (fieldPcOffset11 w) else .jsrr (fieldSR1 w)
  else if op = 0b0101#4 then
    if bit w 5 then .andImm (fieldDR w) (fieldSR1 w) (fieldImm5 w)
    else .andReg (fieldDR w) (fieldSR1 w) (fieldSR2 w)
  else if op = 0b0110#4 then .ldw (fieldDR w) (fieldSR1 w) (fieldOffset6 w)
  else if op = 0b0111#4 then .stw (fieldDR w) (fieldSR1 w) (fieldOffset6 w)
  else if op = 0b1000#4 then .rti
  else if op = 0b1001#4 then
    if bit w 5 then
      if fieldImm5 w = 0b11111#5 then .notReg (fieldDR w) (fieldSR1 w)
      else .xorImm (fieldDR w) (fieldSR1 w) (fieldImm5 w)
    else .xorReg (fieldDR w) (fieldSR1 w) (fieldSR2 w)
  else if op = 0b1010#4 then .reserved1010
  else if op = 0b1011#4 then .reserved1011
  else if op = 0b1100#4 then
    if fieldSR1 w = 7#3 then .ret else .jmp (fieldSR1 w)
  else if op = 0b1101#4 then
    if bit w 4 then
      if bit w 5 then .rshfa (fieldDR w) (fieldSR1 w) (fieldAmount4 w)
      else .rshfl (fieldDR w) (fieldSR1 w) (fieldAmount4 w)
    else .lshf (fieldDR w) (fieldSR1 w) (fieldAmount4 w)
  else if op = 0b1110#4 then .lea (fieldDR w) (fieldPcOffset9 w)
  else
    if fieldTrapvect8 w = 0x25#8 then .halt else .trap (fieldTrapvect8 w)

/-- The word at an even address and the one above it: the low byte lies at the even address (20_memory.md R53, R54). -/
def wordOfBytes (low high : Byte) : Word := high ++ low

/-- The two bytes of a word as memory holds them, low byte first (R53, R54). -/
def bytesOfWord (w : Word) : List Byte := [range w 7 0, range w 15 8]

/-- The instruction at the head of a list of bytes, with the bytes behind it (R80, R92). -/
def decode : List Byte → Except DecodeError (Instr × List Byte)
  | low :: high :: rest => .ok (decodeWord (wordOfBytes low high), rest)
  | _ => .error .truncated

/-- The word an assembler emits (R88); the bits of `ignoredBits` are 0 (R82, log 11). -/
def encode : Instr → Word
  | .addReg dr sr1 sr2 => 0b0001#4 ++ dr ++ sr1 ++ 0b0#1 ++ 0b00#2 ++ sr2
  | .addImm dr sr1 imm5 => 0b0001#4 ++ dr ++ sr1 ++ 0b1#1 ++ imm5
  | .andReg dr sr1 sr2 => 0b0101#4 ++ dr ++ sr1 ++ 0b0#1 ++ 0b00#2 ++ sr2
  | .andImm dr sr1 imm5 => 0b0101#4 ++ dr ++ sr1 ++ 0b1#1 ++ imm5
  | .xorReg dr sr1 sr2 => 0b1001#4 ++ dr ++ sr1 ++ 0b0#1 ++ 0b00#2 ++ sr2
  | .xorImm dr sr1 imm5 => 0b1001#4 ++ dr ++ sr1 ++ 0b1#1 ++ imm5
  | .notReg dr sr => 0b1001#4 ++ dr ++ sr ++ 0b1#1 ++ 0b11111#5
  | .lshf dr sr amount4 => 0b1101#4 ++ dr ++ sr ++ 0b0#1 ++ 0b0#1 ++ amount4
  | .rshfl dr sr amount4 => 0b1101#4 ++ dr ++ sr ++ 0b0#1 ++ 0b1#1 ++ amount4
  | .rshfa dr sr amount4 => 0b1101#4 ++ dr ++ sr ++ 0b1#1 ++ 0b1#1 ++ amount4
  | .lea dr pcOffset9 => 0b1110#4 ++ dr ++ pcOffset9
  | .ldb dr baseR boffset6 => 0b0010#4 ++ dr ++ baseR ++ boffset6
  | .ldw dr baseR offset6 => 0b0110#4 ++ dr ++ baseR ++ offset6
  | .stb sr baseR boffset6 => 0b0011#4 ++ sr ++ baseR ++ boffset6
  | .stw sr baseR offset6 => 0b0111#4 ++ sr ++ baseR ++ offset6
  | .br n z p pcOffset9 => 0b0000#4 ++ BitVec.ofBool n ++ BitVec.ofBool z ++ BitVec.ofBool p ++ pcOffset9
  | .nop => 0b0000#4 ++ 0b000#3 ++ 0b000000000#9
  | .jmp baseR => 0b1100#4 ++ 0b000#3 ++ baseR ++ 0b000000#6
  | .ret => 0b1100#4 ++ 0b000#3 ++ 0b111#3 ++ 0b000000#6
  | .jsr pcOffset11 => 0b0100#4 ++ 0b1#1 ++ pcOffset11
  | .jsrr baseR => 0b0100#4 ++ 0b0#1 ++ 0b00#2 ++ baseR ++ 0b000000#6
  | .trap trapvect8 => 0b1111#4 ++ 0b0000#4 ++ trapvect8
  | .halt => 0b1111#4 ++ 0b0000#4 ++ 0b00100101#8
  | .rti => 0b1000#4 ++ 0b000000000000#12
  | .reserved1010 => 0b1010#4 ++ 0b000000000000#12
  | .reserved1011 => 0b1011#4 ++ 0b000000000000#12

/-- The instruction's row of spec/opcode_table.json: its mask and its match, `(IR & mask) == match` (R87). -/
def tableRow : Instr → Word × Word
  | .addReg _ _ _ => (0xF020#16, 0x1000#16)
  | .addImm _ _ _ => (0xF020#16, 0x1020#16)
  | .andReg _ _ _ => (0xF020#16, 0x5000#16)
  | .andImm _ _ _ => (0xF020#16, 0x5020#16)
  | .xorReg _ _ _ => (0xF020#16, 0x9000#16)
  | .xorImm _ _ _ => (0xF020#16, 0x9020#16)
  | .notReg _ _ => (0xF03F#16, 0x903F#16)
  | .lshf _ _ _ => (0xF010#16, 0xD000#16)
  | .rshfl _ _ _ => (0xF030#16, 0xD010#16)
  | .rshfa _ _ _ => (0xF030#16, 0xD030#16)
  | .lea _ _ => (0xF000#16, 0xE000#16)
  | .ldb _ _ _ => (0xF000#16, 0x2000#16)
  | .ldw _ _ _ => (0xF000#16, 0x6000#16)
  | .stb _ _ _ => (0xF000#16, 0x3000#16)
  | .stw _ _ _ => (0xF000#16, 0x7000#16)
  | .br _ _ _ _ => (0xF000#16, 0x0000#16)
  | .nop => (0xFFFF#16, 0x0000#16)
  | .jmp _ => (0xF000#16, 0xC000#16)
  | .ret => (0xF1C0#16, 0xC1C0#16)
  | .jsr _ => (0xF800#16, 0x4800#16)
  | .jsrr _ => (0xF800#16, 0x4000#16)
  | .trap _ => (0xF000#16, 0xF000#16)
  | .halt => (0xF0FF#16, 0xF025#16)
  | .rti => (0xF000#16, 0x8000#16)
  | .reserved1010 => (0xF000#16, 0xA000#16)
  | .reserved1011 => (0xF000#16, 0xB000#16)

/-- The bits of the instruction's word that the hardware does not read (R90; R82 for the opcodes 1010 and 1011), and
IR[5] of LSHF, which it reads (R81) and which has no influence when IR[4] is 0 (45_stage_agex.md R187, 48_isa_operate.md R258): DEDUCED (log 11). -/
def ignoredBits : Instr → Word
  | .addReg _ _ _ => 0x0018#16
  | .addImm _ _ _ => 0x0000#16
  | .andReg _ _ _ => 0x0018#16
  | .andImm _ _ _ => 0x0000#16
  | .xorReg _ _ _ => 0x0018#16
  | .xorImm _ _ _ => 0x0000#16
  | .notReg _ _ => 0x0000#16
  | .lshf _ _ _ => 0x0020#16
  | .rshfl _ _ _ => 0x0000#16
  | .rshfa _ _ _ => 0x0000#16
  | .lea _ _ => 0x0000#16
  | .ldb _ _ _ => 0x0000#16
  | .ldw _ _ _ => 0x0000#16
  | .stb _ _ _ => 0x0000#16
  | .stw _ _ _ => 0x0000#16
  | .br _ _ _ _ => 0x0000#16
  | .nop => 0x0000#16
  | .jmp _ => 0x0E3F#16
  | .ret => 0x0E3F#16
  | .jsr _ => 0x0000#16
  | .jsrr _ => 0x063F#16
  | .trap _ => 0x0F00#16
  | .halt => 0x0F00#16
  | .rti => 0x0FFF#16
  | .reserved1010 => 0x0FFF#16
  | .reserved1011 => 0x0FFF#16

/-- The word whose bits are the low `nbits` of `w`, bit 0 the least significant (the numbering of spec/opcode_table.json);
every bit above is 0. -/
def tableWord (nbits w : Nat) : Word := make 16 (w % 2 ^ nbits)

/-- What the decoder reads from an instruction whose bits are `w`, laid out in memory order (R54). -/
def decodeTableWord (nbits w : Nat) : Option Instr :=
  match decode (bytesOfWord (tableWord nbits w)) with
  | .ok (i, _) => some i
  | .error _ => none

end Sys2Proof
end

