-- ==== Sys2Proof/Config.lean ====
section
/-! DEFINITION. What the spec leaves to an implementation: the open parameters of 00_scope.md R7 as data that
every pipeline function takes as an argument, and the one free value (44_stage_mem.md R164). -/

namespace Sys2Proof

/-- A control-store word of 23 bits (41_control_store.md R120). Bit `j` of the container is position `b<j>` of
the row string, the order in which R113 and R124 name its slices. -/
abbrev ControlWord := BitVec 23

/-- The slice carried by the AGEX latch: positions b3 to b22 (R124). -/
abbrev AgexCS := BitVec 20

/-- The slice carried by the MEM latch: positions b12 to b22 (R124). -/
abbrev MemCS := BitVec 11

/-- The slice carried by the SR latch: positions b19 to b22 (R124). -/
abbrev SrCS := BitVec 4

/-- The open parameters the pipeline reads (00_scope.md R7, 42_pipeline_cycle.md R140): the control-store image and
the two ready predicates of the cycle count. The reference values are `referenceParams` (log 2). -/
structure Params where
  /-- `UCODE`: a total table of 64 rows (R120). -/
  ucode : BitVec 6 → ControlWord
  /-- `ICACHE_READY(c)`: does the instruction port answer in cycle `c` (20_memory.md R58)? -/
  icacheReady : Nat → Bool
  /-- `DCACHE_READY(c)`: does the data port answer in cycle `c` (R59)? -/
  dcacheReady : Nat → Bool

/-- FREE VALUE (log 6). `mem_data` of the n-th cycle in which MEM makes no data access: unspecified, any 16-bit
value (44_stage_mem.md R164, U5 of 93_implementation_defined.md). No body: nothing can be proved of it. -/
opaque Config.freeData : Nat → Word

/-- The word a port returns when it is not ready (00_scope.md R6, 20_memory.md R58, R59). -/
abbrev Config.notReadyWord : Word := 0xFEED#16

end Sys2Proof
end

