-- ==== Sys2Proof/Machine/ControlStore.lean ====
section
/-! DEFINITION. The control store: addressing, fields, slices, well-formedness and the reference image
(41_control_store.md R120 to R133). -/

namespace Sys2Proof.Machine

open Bits

/-- The row of an instruction word: `IR[15:11]` as the five high bits, `IR[5]` as the low bit (R121). -/
def controlRow (ir : Word) : BitVec 6 := fieldRowHigh ir ++ BitVec.ofBool (bit ir 5)

/-- The named fields of a control word, in the order of their positions (R122). -/
inductive ControlField where
  | sr1Needed | sr2Needed | drMux
  | addr1Mux | addr2Mux | lshf1 | addressMux | sr2Mux | aluK | aluResultMux
  | brOp | uncondOp | trapOp | brStall
  | dcacheEn | dcacheRw | dataSize
  | drValueMux | ldReg | ldCc
  deriving DecidableEq, Repr

/-- The (first) position of a field in the row string (R122). -/
def ControlField.position : ControlField → Nat
  | .sr1Needed => 0
  | .sr2Needed => 1
  | .drMux => 2
  | .addr1Mux => 3
  | .addr2Mux => 4
  | .lshf1 => 6
  | .addressMux => 7
  | .sr2Mux => 8
  | .aluK => 9
  | .aluResultMux => 11
  | .brOp => 12
  | .uncondOp => 13
  | .trapOp => 14
  | .brStall => 15
  | .dcacheEn => 16
  | .dcacheRw => 17
  | .dataSize => 18
  | .drValueMux => 19
  | .ldReg => 21
  | .ldCc => 22

/-- The fields of two bits (R122). -/
def ControlField.isPair : ControlField → Bool
  | .addr2Mux => true
  | .aluK => true
  | .drValueMux => true
  | _ => false

/-- A slice of `n` bits that begins at word position `first` carries the 1-bit field `f` (R122, R124). -/
abbrev HasFlag (first n : Nat) (f : ControlField) : Prop :=
  f.isPair = false ∧ first ≤ f.position ∧ IndexOk n (f.position - first)

/-- A slice of `n` bits that begins at word position `first` carries both bits of the 2-bit field `f` (R122, R124). -/
abbrev HasPair (first n : Nat) (f : ControlField) : Prop :=
  f.isPair = true ∧ first ≤ f.position ∧ IndexOk n (f.position - first + 1)

/-- The full word carries every 1-bit field (R122). -/
theorem hasFlag_word (f : ControlField) (h : f.isPair = false) : HasFlag 0 23 f := by
  cases f <;> first | decide | exact absurd h (by decide)

/-- The full word carries every 2-bit field (R122). -/
theorem hasPair_word (f : ControlField) (h : f.isPair = true) : HasPair 0 23 f := by
  cases f <;> first | decide | exact absurd h (by decide)

/-- A 1-bit field of a slice that begins at word position `first` and carries it (R123, R124). -/
def flagAt {n : Nat} (first : Nat) (cs : BitVec n) (f : ControlField) (h : HasFlag first n f := by decide) : Bool :=
  bit cs (f.position - first) h.2.2

/-- A 2-bit field of a slice that begins at word position `first` and carries it: the bit that comes first in the row
is the more significant (R125). -/
def pairAt {n : Nat} (first : Nat) (cs : BitVec n) (f : ControlField) (h : HasPair first n f := by decide) : BitVec 2 :=
  BitVec.ofBool (bit cs (f.position - first) ⟨Nat.lt_of_succ_lt h.2.2.1, h.2.2.2⟩) ++
    BitVec.ofBool (bit cs (f.position - first + 1) h.2.2)

/-- `get_word(row)` (R123). -/
def getWord (P : Params) (row : BitVec 6) : ControlWord := P.ucode row

/-- The value of field `F` of a full control word, as a number (R123, R125). -/
def fieldValue (cw : ControlWord) (f : ControlField) : Nat :=
  if h : f.isPair = true then (pairAt 0 cw f (hasPair_word f h)).toNat
  else (flagAt 0 cw f (hasFlag_word f (Bool.eq_false_iff.mpr h))).toNat

/-- `get_field(row, F)`, written `CS[row].F` in the spec (R123). -/
def getField (P : Params) (row : BitVec 6) (f : ControlField) : Nat := fieldValue (getWord P row) f

/-- `AGEX_CS`: positions b3 to b22 (R124). -/
def agexSlice (cw : ControlWord) : AgexCS := range cw 22 3

/-- `MEM_CS.range<10,0>() = AGEX_CS.range<19,9>()`: positions b12 to b22 (R124). -/
def memSlice (cs : AgexCS) : MemCS := range cs 19 9

/-- `SR_CS`: MEM_CS positions 7 to 10, b19 to b22 (R124). -/
def srSlice (cs : MemCS) : SrCS := range cs 10 7

/-- The word position at which each slice begins (R122, R124). -/
abbrev agexFirst : Nat := 3

/-- The word position at which MEM_CS begins (R124). -/
abbrev memFirst : Nat := 12

/-- The word position at which SR_CS begins (R124). -/
abbrev srFirst : Nat := 19

/-- A row of R131 as written there, `b0` first: position `b<k>` becomes bit `k` of the container (R120). -/
def rowString (bits : BitVec 23) : ControlWord := bits.reverse

/-- `UCODE_REF`, the 64 rows of R131 in order. -/
def ucodeRefRows : List ControlWord := [
  rowString 0b000_010110000_1001_000_0000#23, --  0 BR
  rowString 0b000_010110000_1001_000_0000#23, --  1 BR
  rowString 0b000_010110000_1001_000_0000#23, --  2 BR
  rowString 0b000_010110000_1001_000_0000#23, --  3 BR
  rowString 0b110_000000001_0000_000_1111#23, --  4 ADD register
  rowString 0b100_000001001_0000_000_1111#23, --  5 ADD immediate
  rowString 0b110_000000001_0000_000_1111#23, --  6 ADD register
  rowString 0b100_000001001_0000_000_1111#23, --  7 ADD immediate
  rowString 0b100_101010000_0000_100_0111#23, --  8 LDB
  rowString 0b100_101010000_0000_100_0111#23, --  9 LDB
  rowString 0b100_101010000_0000_100_0111#23, -- 10 LDB
  rowString 0b100_101010000_0000_100_0111#23, -- 11 LDB
  rowString 0b110_101010111_0000_110_0000#23, -- 12 STB
  rowString 0b110_101010111_0000_110_0000#23, -- 13 STB
  rowString 0b110_101010111_0000_110_0000#23, -- 14 STB
  rowString 0b110_101010111_0000_110_0000#23, -- 15 STB
  rowString 0b101_100010000_0101_000_1010#23, -- 16 JSRR
  rowString 0b101_100010000_0101_000_1010#23, -- 17 JSRR
  rowString 0b001_011110000_0101_000_1010#23, -- 18 JSR
  rowString 0b001_011110000_0101_000_1010#23, -- 19 JSR
  rowString 0b110_000000011_0000_000_1111#23, -- 20 AND register
  rowString 0b100_000001011_0000_000_1111#23, -- 21 AND immediate
  rowString 0b110_000000011_0000_000_1111#23, -- 22 AND register
  rowString 0b100_000001011_0000_000_1111#23, -- 23 AND immediate
  rowString 0b100_101110000_0000_101_0111#23, -- 24 LDW
  rowString 0b100_101110000_0000_101_0111#23, -- 25 LDW
  rowString 0b100_101110000_0000_101_0111#23, -- 26 LDW
  rowString 0b100_101110000_0000_101_0111#23, -- 27 LDW
  rowString 0b110_101110111_0000_111_0000#23, -- 28 STW
  rowString 0b110_101110111_0000_111_0000#23, -- 29 STW
  rowString 0b110_101110111_0000_111_0000#23, -- 30 STW
  rowString 0b110_101110111_0000_111_0000#23, -- 31 STW
  rowString 0b000_000000000_0000_000_0000#23, -- 32 RTI (none)
  rowString 0b000_000000000_0000_000_0000#23, -- 33 RTI (none)
  rowString 0b000_000000000_0000_000_0000#23, -- 34 RTI (none)
  rowString 0b000_000000000_0000_000_0000#23, -- 35 RTI (none)
  rowString 0b110_000000101_0000_000_1111#23, -- 36 XOR register
  rowString 0b100_000001101_0000_000_1111#23, -- 37 XOR immediate, NOT
  rowString 0b110_000000101_0000_000_1111#23, -- 38 XOR register
  rowString 0b100_000001101_0000_000_1111#23, -- 39 XOR immediate, NOT
  rowString 0b000_000000000_0000_000_0000#23, -- 40 reserved (none)
  rowString 0b000_000000000_0000_000_0000#23, -- 41 reserved (none)
  rowString 0b000_000000000_0000_000_0000#23, -- 42 reserved (none)
  rowString 0b000_000000000_0000_000_0000#23, -- 43 reserved (none)
  rowString 0b000_000000000_0000_000_0000#23, -- 44 reserved (none)
  rowString 0b000_000000000_0000_000_0000#23, -- 45 reserved (none)
  rowString 0b000_000000000_0000_000_0000#23, -- 46 reserved (none)
  rowString 0b000_000000000_0000_000_0000#23, -- 47 reserved (none)
  rowString 0b100_100010000_0101_000_0000#23, -- 48 JMP, RET
  rowString 0b100_100010000_0101_000_0000#23, -- 49 JMP, RET
  rowString 0b100_100010000_0101_000_0000#23, -- 50 JMP, RET
  rowString 0b100_100010000_0101_000_0000#23, -- 51 JMP, RET
  rowString 0b100_000000000_0000_000_1111#23, -- 52 LSHF, RSHFL, RSHFA
  rowString 0b100_000000000_0000_000_1111#23, -- 53 LSHF, RSHFL, RSHFA
  rowString 0b100_000000000_0000_000_1111#23, -- 54 LSHF, RSHFL, RSHFA
  rowString 0b100_000000000_0000_000_1111#23, -- 55 LSHF, RSHFL, RSHFA
  rowString 0b000_010110000_0000_000_0010#23, -- 56 LEA
  rowString 0b000_010110000_0000_000_0010#23, -- 57 LEA
  rowString 0b000_010110000_0000_000_0010#23, -- 58 LEA
  rowString 0b000_010110000_0000_000_0010#23, -- 59 LEA
  rowString 0b001_000000000_0011_101_1010#23, -- 60 TRAP
  rowString 0b001_000000000_0011_101_1010#23, -- 61 TRAP
  rowString 0b001_000000000_0011_101_1010#23, -- 62 TRAP
  rowString 0b001_000000000_0011_101_1010#23] -- 63 TRAP

/-- `UCODE_REF` as a table of rows (R131). -/
def ucodeRef (row : BitVec 6) : ControlWord := ucodeRefRows.getD row.toNat 0

/-- `addr_used` of a row (R129). -/
def addrUsed (cw : ControlWord) : Bool :=
  flagAt 0 cw .addressMux &&
    (flagAt 0 cw .dcacheEn || flagAt 0 cw .brOp || flagAt 0 cw .uncondOp ||
      (flagAt 0 cw .ldReg && pairAt 0 cw .drValueMux == 0#2))

/-- `result_used` of a row (R129). -/
def resultUsed (cw : ControlWord) : Bool :=
  (flagAt 0 cw .ldReg && pairAt 0 cw .drValueMux == 3#2) || (flagAt 0 cw .dcacheEn && flagAt 0 cw .dcacheRw)

/-- W1: at most one of BR_OP, UNCOND_OP, TRAP_OP (R129). -/
def wfTransfer (cw : ControlWord) : Bool :=
  !(flagAt 0 cw .brOp && flagAt 0 cw .uncondOp) && !(flagAt 0 cw .brOp && flagAt 0 cw .trapOp) &&
    !(flagAt 0 cw .uncondOp && flagAt 0 cw .trapOp)

/-- W2: a transfer sets BR_STALL (R129). -/
def wfBranchStall (cw : ControlWord) : Bool :=
  !(flagAt 0 cw .brOp || flagAt 0 cw .uncondOp || flagAt 0 cw .trapOp) || flagAt 0 cw .brStall

/-- W3: a row that uses the SR1 value sets SR1_NEEDED (R129). -/
def wfSr1 (cw : ControlWord) : Bool :=
  !((flagAt 0 cw .addr1Mux && addrUsed cw) || (resultUsed cw && !flagAt 0 cw .aluResultMux) ||
      (resultUsed cw && flagAt 0 cw .aluResultMux && pairAt 0 cw .aluK != 3#2)) || flagAt 0 cw .sr1Needed

/-- W4: a row that uses the SR2 value sets SR2_NEEDED (R129). -/
def wfSr2 (cw : ControlWord) : Bool :=
  !(resultUsed cw && flagAt 0 cw .aluResultMux && !flagAt 0 cw .sr2Mux) || flagAt 0 cw .sr2Needed

/-- W5: a row that writes back DATA reads memory (R129). -/
def wfData (cw : ControlWord) : Bool :=
  !(pairAt 0 cw .drValueMux == 1#2 && flagAt 0 cw .ldReg) || (flagAt 0 cw .dcacheEn && !flagAt 0 cw .dcacheRw)

/-- W6: a trap reads a word (R129). -/
def wfTrap (cw : ControlWord) : Bool :=
  !flagAt 0 cw .trapOp || (flagAt 0 cw .dcacheEn && !flagAt 0 cw .dcacheRw && flagAt 0 cw .dataSize)

/-- W7: a row that writes memory enables the data port (R129). -/
def wfWrite (cw : ControlWord) : Bool := !flagAt 0 cw .dcacheRw || flagAt 0 cw .dcacheEn

/-- W1 to W7 of one row (R129). -/
def wfRow (cw : ControlWord) : Bool :=
  wfTransfer cw && wfBranchStall cw && wfSr1 cw && wfSr2 cw && wfData cw && wfTrap cw && wfWrite cw

/-- Is IR[5] an operand bit of the opcode (R86)? Not for ADD, AND and XOR, where it splits the rows. DESIGN CHOICE
(log 33): a bit that neither splits the rows nor is read (IR[5] of RTI, 1010, 1011, JMP and JSRR) counts as an operand
bit, so W8 asks those rows to agree as well; R86 and R129 leave this open. -/
def bit5IsOperand (opcode : BitVec 4) : Bool := opcode != 0b0001#4 && opcode != 0b0101#4 && opcode != 0b1001#4

/-- Is IR[11] an operand bit of the opcode (R86)? Not for 0100, where it splits JSRR from JSR. DESIGN CHOICE (log 33):
the unread IR[11] of RTI, 1010, 1011, JMP and TRAP counts as an operand bit, so W8 asks those rows to agree as well; R86
and R129 leave this open. -/
def bit11IsOperand (opcode : BitVec 4) : Bool := opcode != 0b0100#4

/-- The row of an opcode for given values of IR[11] and IR[5] (R86). -/
def rowOfOpcode (opcode : BitVec 4) (b11 b5 : Bool) : BitVec 6 := opcode ++ BitVec.ofBool b11 ++ BitVec.ofBool b5

/-- W8: the rows of an opcode agree wherever IR[11] or IR[5] is an operand bit of it (R86, R129). -/
def wfOpcode (ucode : BitVec 6 → ControlWord) (opcode : BitVec 4) : Bool :=
  [false, true].all fun b =>
    (!bit11IsOperand opcode || ucode (rowOfOpcode opcode false b) == ucode (rowOfOpcode opcode true b)) &&
    (!bit5IsOperand opcode || ucode (rowOfOpcode opcode b false) == ucode (rowOfOpcode opcode b true))

/-- `WF(UCODE)`: W1 to W7 of every row and W8 of every opcode (R129). -/
def wfUcode (ucode : BitVec 6 → ControlWord) : Bool :=
  (List.range 64).all (fun r => wfRow (ucode (BitVec.ofNat 6 r))) &&
    (List.range 16).all (fun o => wfOpcode ucode (BitVec.ofNat 4 o))

end Sys2Proof.Machine
end

