-- ==== Sys2Proof/Machine/Memory.lean ====
section
/-! DEFINITION. Main memory, its byte planes, its two ports (20_memory.md R50 to R69) and the image a loader delivers
(30_encoding.md R96, 70_reset_and_hazards.md R322). -/

namespace Sys2Proof.Machine

open Bits

/-- 65536 bytes (R29, R50) as the list of those that are not 0x00, by rising byte address. -/
abbrev Memory := List Host.Cell

/-- What an address that is not listed reads as: 0x00, the default of `MEM_INIT` (10_state.md R43; log 5). -/
def Memory.unlisted : Byte := 0#8

/-- The canonical form: addresses strictly rising and inside the address space, no entry equal to what an unlisted
address reads as. -/
def Memory.wf (m : Memory) : Bool :=
  decide (m.Pairwise (fun c d => c.1 < d.1)) && m.all (fun c => decide (c.1 < 65536) && c.2 != Memory.unlisted)

/-- The byte at byte address `a`. -/
def Memory.readAt : Memory → Nat → Byte
  | [], _ => Memory.unlisted
  | (k, b) :: rest, a => if k = a then b else Memory.readAt rest a

/-- The memory without an entry for `a`. -/
def Memory.erase (m : Memory) (a : Nat) : Memory := m.filter (fun c => c.1 != a)

/-- An entry put before the first larger address. -/
def Memory.insert : Memory → Nat → Byte → Memory
  | [], a, v => [(a, v)]
  | (k, b) :: rest, a, v => if a < k then (a, v) :: (k, b) :: rest else (k, b) :: Memory.insert rest a v

/-- The memory with byte `v` at byte address `a`; writing what an unlisted address reads as removes the entry. -/
def Memory.writeAt (m : Memory) (a : Nat) (v : Byte) : Memory :=
  if v = Memory.unlisted then m.erase a else (m.erase a).insert a v

/-- The byte at a 16-bit byte address. -/
def Memory.byte (m : Memory) (a : Word) : Byte := m.readAt a.toNat

/-- The word address of a byte address: `a >> 1`, bit 0 dropped (R51, R55). -/
def wordAddr (a : Word) : WordAddr := range a 15 1

/-- The byte address of the low plane of a word: the even address (R53). -/
def lowAddr (w : WordAddr) : Nat := 2 * w.toNat

/-- The byte address of the high plane of a word: the odd address (R53). -/
def highAddr (w : WordAddr) : Nat := 2 * w.toNat + 1

/-- `get_low_byte(w) = MEM_LO[w]` (R52). -/
def Memory.getLow (m : Memory) (w : WordAddr) : Byte := m.readAt (lowAddr w)

/-- `get_high_byte(w) = MEM_HI[w]` (R52). -/
def Memory.getHigh (m : Memory) (w : WordAddr) : Byte := m.readAt (highAddr w)

/-- `set_low_byte(w, b)` writes `MEM_LO[w]` only (R52). -/
def Memory.setLow (m : Memory) (w : WordAddr) (b : Byte) : Memory := m.writeAt (lowAddr w) b

/-- `set_high_byte(w, b)` writes `MEM_HI[w]` only (R52). -/
def Memory.setHigh (m : Memory) (w : WordAddr) (b : Byte) : Memory := m.writeAt (highAddr w) b

/-- `WORD(w) = (MEM_HI[w] << 8) | MEM_LO[w]` (R50). -/
def Memory.word (m : Memory) (w : WordAddr) : Word := m.getHigh w ++ m.getLow w

/-- A write of a word under byte enables (R59). -/
def Memory.writeMasked (m : Memory) (w : WordAddr) (v : Word) (weLo weHi : Bool) : Memory :=
  let m1 := if weLo then m.setLow w (range v 7 0) else m
  if weHi then m1.setHigh w (range v 15 8) else m1

/-- `MemRead(a, 2)`: the word that contains the addressed byte (R55, R56). -/
def memReadWord (m : Memory) (a : Word) : Word := m.word (wordAddr a)

/-- `MemRead(a, 1)`: the high plane when bit 0 of the address is 1, else the low plane (R56). -/
def memReadByte (m : Memory) (a : Word) : Byte :=
  if bit a 0 then m.getHigh (wordAddr a) else m.getLow (wordAddr a)

/-- `MemWrite(a, 2, v)`: both planes of the containing word (R55, R57). -/
def memWriteWord (m : Memory) (a : Word) (v : Word) : Memory := m.writeMasked (wordAddr a) v true true

/-- `MemWrite(a, 1, v)`: the plane bit 0 of the address selects; the other is unchanged (R57). -/
def memWriteByte (m : Memory) (a : Word) (v : Byte) : Memory :=
  if bit a 0 then m.setHigh (wordAddr a) v else m.setLow (wordAddr a) v

/-- `ICacheAccess(a)` in cycle `c`: the word and `icache_r`; 0xFEED when the port is not ready (R58). -/
def icacheAccess (P : Params) (c : Nat) (m : Memory) (a : Word) : Word × Bool :=
  if P.icacheReady c then (m.word (wordAddr a), true) else (Config.notReadyWord, false)

/-- What one data-port access answers (R59). -/
structure DCacheResult where
  readWord : Word
  ready : Bool
  memory : Memory
  deriving DecidableEq, Repr

/-- `DCacheAccess(a, write_word, we_lo, we_hi)` in cycle `c`: the word before the access's own write, then the enabled
bytes are written; when the port is not ready 0xFEED is read and nothing is written (R59). -/
def dcacheAccess (P : Params) (c : Nat) (m : Memory) (a writeWord : Word) (weLo weHi : Bool) : DCacheResult :=
  if P.dcacheReady c then
    { readWord := m.word (wordAddr a), ready := true, memory := m.writeMasked (wordAddr a) writeWord weLo weHi }
  else { readWord := Config.notReadyWord, ready := false, memory := m }

/-- The image after a program file: word `k` goes to word address `base + k`, files in order, a later write replacing
an earlier one (30_encoding.md R96, 70_reset_and_hazards.md R322 (b)). A file that does not fit never reaches the hardware
(R322), and the spec gives it no image: DESIGN CHOICE (log 34), this function wraps such a file to word address 0. -/
def Memory.loadFile : Memory → WordAddr → List Word → Memory
  | m, _, [] => m
  | m, base, v :: rest => Memory.loadFile (m.writeMasked base v true true) (base + 1) rest

end Sys2Proof.Machine
end

