-- ==== Sys2Proof/Machine/Parameters.lean ====
section
/-! DEFINITION. The values the machine `core` takes for the open parameters (00_scope.md R7): the reference image and
predicates the spec gives (log 2) and the reset parameters (log 3, log 4, log 5). -/

namespace Sys2Proof.Machine

/-- The reference predicate of the instruction port: `c mod 13 != 0` (20_memory.md R58). -/
def icacheReadyRef (c : Nat) : Bool := c % 13 != 0

/-- The reference predicate of the data port: `c mod 9 != 0` (R59). -/
def dcacheReadyRef (c : Nat) : Bool := c % 9 != 0

/-- The reference parameters: `UCODE_REF` (41_control_store.md R131) and the two reference predicates (log 2). -/
def referenceParams : Params :=
  { ucode := ucodeRef, icacheReady := icacheReadyRef, dcacheReady := dcacheReadyRef }

/-- `UCODE_REF` with both ports always ready, the setting of the spec's traces (95_test_vectors.md). -/
def alwaysReadyParams : Params :=
  { ucode := ucodeRef, icacheReady := fun _ => true, dcacheReady := fun _ => true }

/-- `PC_INIT` (10_state.md R42): an open parameter. DESIGN CHOICE 0x3000 (log 3). -/
def pcInitValue : Word := 0x3000#16

/-- `REG_INIT` (R44): 0x0000 in every register (log 4). -/
def regInitValue : Vector Word 8 := Vector.replicate 8 0#16

/-- `MEM_INIT` (R43): no program file loaded, so nothing is listed (log 5, log 8). -/
def memInitValue : Memory := []

end Sys2Proof.Machine
end

