-- ==== Sys2Proof/Machine/State.lean ====
section
/-! DEFINITION. The state of the machine, whole (10_state.md R20 to R48), as plain data, and its values at reset
(R40 to R47, 70_reset_and_hazards.md R320, R321). -/

namespace Sys2Proof.Machine

/-- The condition codes N, Z, P: three single-bit flags (10_state.md R25). Also the CC field of a latch (R33, R34). -/
structure CC where
  n : Bool
  z : Bool
  p : Bool
  deriving DecidableEq, Repr

/-- The `DE` latch, FETCH to DE (10_state.md R32). -/
structure DeLatch where
  v : Bool
  ir : Word
  npc : Word
  deriving DecidableEq, Repr

/-- The `AGEX` latch, DE to AGEX (10_state.md R33). -/
structure AgexLatch where
  v : Bool
  ir : Word
  npc : Word
  sr1 : Word
  sr2 : Word
  cc : CC
  drid : RegId
  cs : AgexCS
  deriving DecidableEq, Repr

/-- The `MEM` latch, AGEX to MEM (10_state.md R34). -/
structure MemLatch where
  v : Bool
  ir : Word
  npc : Word
  aluResult : Word
  address : Word
  cc : CC
  drid : RegId
  cs : MemCS
  deriving DecidableEq, Repr

/-- The `SR` latch, MEM to SR (10_state.md R35). -/
structure SrLatch where
  v : Bool
  ir : Word
  npc : Word
  aluResult : Word
  address : Word
  data : Word
  drid : RegId
  cs : SrCS
  deriving DecidableEq, Repr

/-- Which of the two machines the spec defines a step advances (00_scope.md R12; log 1). -/
inductive Engine where
  /-- The pipeline, one clock cycle a step (42_pipeline_cycle.md R140). -/
  | pipeline
  /-- The sequential LC-3b machine, one instruction a step (49_isa_memory_control.md R287). -/
  | sequential
  deriving DecidableEq, Repr

/-- Everything the spec gives the machine (10_state.md R48), and the model's own `engine` (log 1) and `draws` (log 6). -/
structure State where
  /-- The program counter, a byte address (R22). -/
  pc : Word
  /-- `x[0]` to `x[7]` (R20). -/
  regs : Vector Word 8
  /-- N, Z, P (R25). -/
  cc : CC
  /-- `MEM_LO` and `MEM_HI` (R29). -/
  memory : Memory
  /-- `CYCLE` (R30). -/
  cycleCount : Nat
  /-- The `DE` latch (R32). -/
  de : DeLatch
  /-- The `AGEX` latch (R33). -/
  agex : AgexLatch
  /-- The `MEM` latch (R34). -/
  mem : MemLatch
  /-- The `SR` latch (R35). -/
  sr : SrLatch
  /-- `RUN`, the host's bit (R39). -/
  run : Bool
  /-- The model's own: which machine a step advances (log 1). -/
  engine : Engine
  /-- The model's own: how many free values have been drawn (log 6). -/
  draws : Nat
  deriving DecidableEq, Repr

/-- Why the machine stops with a fault: never. The hardware raises no exception and its step function is total
(60_exceptions.md R300, R308; log 16), so there is no constructor. Safe: nothing is hidden behind a fault. -/
inductive Fault where
  deriving DecidableEq, Repr

/-- Why the model gives no next state. -/
inductive Refusal where
  /-- Raised by `exec` only, for an instruction the model gives no meaning (there is none). Safe. -/
  | notModelled (mnemonic : String)
  /-- Raised by `step` when `RUN = 0`: the host has no move after the end of a run (70_reset_and_hazards.md R327, U21;
  log 7). Safe: nothing is claimed of such a step. -/
  | runEnded
  deriving DecidableEq, Repr

/-- The reset parameters (00_scope.md R7): what the loaders and the host deliver (70_reset_and_hazards.md R322). -/
structure ResetParams where
  /-- `PC_INIT` (R42). -/
  pcInit : Word
  /-- `MEM_INIT` (R43). -/
  memInit : Memory
  /-- `REG_INIT` (R44). -/
  regInit : Vector Word 8
  /-- `CC_INIT` (R44). -/
  ccInit : CC
  deriving DecidableEq, Repr

/-- The values State.reset takes (log 3, log 4, log 5). -/
def ResetParams.reference : ResetParams :=
  { pcInit := pcInitValue, memInit := memInitValue, regInit := regInitValue, ccInit := ⟨false, true, false⟩ }

/-- The `DE` latch at reset: every field zero (R41). -/
def DeLatch.zero : DeLatch := ⟨false, 0, 0⟩

/-- The `AGEX` latch at reset: every field zero (R41). -/
def AgexLatch.zero : AgexLatch := ⟨false, 0, 0, 0, 0, ⟨false, false, false⟩, 0, 0⟩

/-- The `MEM` latch at reset: every field zero (R41). -/
def MemLatch.zero : MemLatch := ⟨false, 0, 0, 0, 0, ⟨false, false, false⟩, 0, 0⟩

/-- The `SR` latch at reset: every field zero (R41). -/
def SrLatch.zero : SrLatch := ⟨false, 0, 0, 0, 0, 0, 0, 0⟩

/-- The initial state after `initialize` with given reset parameters (70_reset_and_hazards.md R320, R321). -/
def State.initial (R : ResetParams) : State :=
  { pc := R.pcInit
    regs := R.regInit
    cc := R.ccInit
    memory := R.memInit
    cycleCount := 0
    de := DeLatch.zero
    agex := AgexLatch.zero
    mem := MemLatch.zero
    sr := SrLatch.zero
    run := true
    engine := .pipeline
    draws := 0 }

/-- The machine right after reset (R321) with the values of log 3 to log 5: no program is loaded. -/
def State.reset : State := State.initial ResetParams.reference

end Sys2Proof.Machine
end

