-- ==== Sys2Proof/Machine/Operands.lean ====
section
/-! DEFINITION. The results and the operand addresses: ALU, shifter and address sums (45_stage_agex.md R181 to R188), used
both by the AGEX stage and by the instruction meanings. -/

namespace Sys2Proof.Machine

open Bits

/-- The ALU: 0 add, 1 and, 2 xor, 3 pass operand B, modulo 2^16, carry and overflow discarded (R186). -/
def alu (aluK : BitVec 2) (a b : Word) : Word :=
  if aluK = 0#2 then a + b
  else if aluK = 1#2 then a &&& b
  else if aluK = 2#2 then a ^^^ b
  else b

/-- Logical left shift, zeros entering at the right (R187). -/
def shiftLeft (a : Word) (k : BitVec 4) : Word := a <<< k.toNat

/-- Logical right shift, zeros entering at the left (R187). -/
def shiftRightLogical (a : Word) (k : BitVec 4) : Word := a >>> k.toNat

/-- Arithmetic right shift: bit 15 is copied into the vacated bits (R187). -/
def shiftRightArith (a : Word) (k : BitVec 4) : Word := a.sshiftRight k.toNat

/-- The shifter: IR[4] = 0 left whatever IR[5] is, IR[5:4] = 01 logical right, 11 arithmetic right (R187). -/
def shifter (right arith : Bool) (a : Word) (k : BitVec 4) : Word :=
  if right then (if arith then shiftRightArith a k else shiftRightLogical a k) else shiftLeft a k

/-- A byte address from a base and a byte offset: not shifted (49_isa_memory_control.md R271, R273). -/
def byteAddress (base : Word) (offset6 : BitVec 6) : Word := base + sext offset6

/-- A byte address from a base and a word offset: shifted left by 1 after sign extension (R272, R274). -/
def wordAddress (base : Word) (offset6 : BitVec 6) : Word := base + timesTwo (sext offset6)

/-- A PC-relative address: NPC plus the sign-extended word offset times two (R275, R279, 48_isa_operate.md R261). -/
def pcRelative {n : Nat} (npc : Word) (offset : BitVec n) (h : 1 ≤ n ∧ n ≤ 16 := by decide) : Word :=
  npc + timesTwo (sext offset h)

/-- The byte address of a trap vector's word: `zext_8(trapvect8) << 1` (45_stage_agex.md R184). -/
def trapVectorAddress (trapvect8 : BitVec 8) : Word := timesTwo (zext trapvect8)

end Sys2Proof.Machine
end

