-- ==== Sys2Proof/Machine/StageAgex.lean ====
section
/-! DEFINITION. The AGEX stage: address, ALU or shifter result, hazard signals and the next MEM latch
(45_stage_agex.md R180 to R193). -/

namespace Sys2Proof.Machine

open Bits

/-- A 1-bit field of AGEX_CS. -/
abbrev AgexLatch.flag (l : AgexLatch) (f : ControlField) (h : HasFlag agexFirst 20 f := by decide) : Bool :=
  flagAt agexFirst l.cs f h

/-- A 2-bit field of AGEX_CS. -/
abbrev AgexLatch.pair (l : AgexLatch) (f : ControlField) (h : HasPair agexFirst 20 f := by decide) : BitVec 2 :=
  pairAt agexFirst l.cs f h

/-- ADDR1MUX: 1 the SR1 value, 0 NPC (R181). -/
def agexAddr1 (l : AgexLatch) : Word := if l.flag .addr1Mux then l.sr1 else l.npc

/-- ADDR2MUX: 0 zero, 1 `sext_6(IR[5:0])`, 2 `sext_9(IR[8:0])`, 3 `sext_11(IR[10:0])` (R182). -/
def agexAddr2Raw (l : AgexLatch) : Word :=
  if l.pair .addr2Mux = 0#2 then 0x0000#16
  else if l.pair .addr2Mux = 1#2 then sext (fieldOffset6 l.ir)
  else if l.pair .addr2Mux = 2#2 then sext (fieldPcOffset9 l.ir)
  else sext (fieldPcOffset11 l.ir)

/-- LSHF1: shifted left by 1 after the sign extension (R183). -/
def agexAddr2 (l : AgexLatch) : Word := if l.flag .lshf1 then timesTwo (agexAddr2Raw l) else agexAddr2Raw l

/-- `address`: ADDRESSMUX 1 the adder, 0 the trap-vector address (R184). DESIGN CHOICE (log 32): where ADDRESSMUX is 0 in
a row that uses no address (ADD register and the like) the unused `address` is the trap-vector address, as R184 and the
rows of 41_control_store.md R131 give it, and not NPC, as the first worked example of R193 says; the spec contradicts
itself there and rules on it nowhere. -/
def agexAddress (l : AgexLatch) : Word :=
  if l.flag .addressMux then agexAddr1 l + agexAddr2 l else timesTwo (zext (fieldTrapvect8 l.ir))

/-- ALU operand B: SR2MUX 1 `sext_5(IR[4:0])`, 0 the SR2 value (R185). -/
def agexOperandB (l : AgexLatch) : Word := if l.flag .sr2Mux then sext (fieldImm5 l.ir) else l.sr2

/-- `alu_out` (R186). -/
def agexAluOut (l : AgexLatch) : Word := alu (l.pair .aluK) l.sr1 (agexOperandB l)

/-- `shf_out`: type field IR[5:4], amount IR[3:0] (R187). -/
def agexShfOut (l : AgexLatch) : Word := shifter (bit l.ir 4) (bit l.ir 5) l.sr1 (fieldAmount4 l.ir)

/-- `alu_result`: ALU_RESULTMUX 1 the ALU, 0 the shifter (R188). -/
def agexResult (l : AgexLatch) : Word := if l.flag .aluResultMux then agexAluOut l else agexShfOut l

/-- The signals AGEX produces (10_state.md R38). -/
structure AgexSignals where
  vAgexLdReg : Bool
  vAgexLdCc : Bool
  vAgexBrStall : Bool
  agexDrid : RegId
  deriving DecidableEq, Repr

/-- The hazard signals, computed also under `mem_stall` (R190). -/
def agexSignals (l : AgexLatch) : AgexSignals :=
  { vAgexLdReg := l.v && l.flag .ldReg
    vAgexLdCc := l.v && l.flag .ldCc
    vAgexBrStall := l.v && l.flag .brStall
    agexDrid := l.drid }

/-- `MEM'`: the stage's output, or under `mem_stall` the MEM latch's own content (R189, R191). -/
def memNext (memStall : Bool) (l : AgexLatch) (held : MemLatch) : MemLatch :=
  if memStall then held
  else
    { v := l.v
      ir := l.ir
      npc := l.npc
      aluResult := agexResult l
      address := agexAddress l
      cc := l.cc
      drid := l.drid
      cs := memSlice l.cs }

end Sys2Proof.Machine
end

