-- ==== Sys2Proof/Machine/Flags.lean ====
section
/-! DEFINITION. The condition-code logic: N, Z, P of a 16-bit value (43_stage_sr.md R152, `setcc` of 00_scope.md R10) and
the branch test (44_stage_mem.md R167). No other flag exists (48_isa_operate.md R262). -/

namespace Sys2Proof.Machine

open Bits

/-- `sr_n = v[15]` (R152). -/
def flagN (v : Word) : Bool := bit v 15

/-- `sr_z`: the value is exactly zero (R152, conflict C9). -/
def flagZ (v : Word) : Bool := v == 0#16

/-- `sr_p`: neither negative nor zero (R152). -/
def flagP (v : Word) : Bool := !flagN v && !flagZ v

/-- The three flags of a value (R152). -/
def ccOf (v : Word) : CC := ⟨flagN v, flagZ v, flagP v⟩

/-- `br_cond`: any requested condition is set, AND per bit (R167, conflict C8). -/
def branchCond (n z p : Bool) (cc : CC) : Bool := (n && cc.n) || (z && cc.z) || (p && cc.p)

/-- Exactly one of N, Z, P is 1 (10_state.md R25). -/
def CC.oneHot (cc : CC) : Bool := (cc.n.toNat + cc.z.toNat + cc.p.toNat) == 1

end Sys2Proof.Machine
end

