-- ==== Sys2Proof/Machine/StageMem.lean ====
section
/-! DEFINITION. The MEM stage: the data access, the resolution of control transfers and the next SR latch
(44_stage_mem.md R160 to R174). -/

namespace Sys2Proof.Machine

open Bits

/-- A 1-bit field of MEM_CS. -/
abbrev MemLatch.flag (l : MemLatch) (f : ControlField) (h : HasFlag memFirst 11 f := by decide) : Bool :=
  flagAt memFirst l.cs f h

/-- `v_dcache_en` (R161). -/
def vDcacheEn (l : MemLatch) : Bool := l.v && l.flag .dcacheEn

/-- `wr`: a data access that writes (R162). -/
def memWrites (l : MemLatch) : Bool := vDcacheEn l && l.flag .dcacheRw

/-- `we_lo`: every word write, and a byte write at an even address (R162). -/
def memWeLo (l : MemLatch) : Bool := memWrites l && (l.flag .dataSize || !bit l.address 0)

/-- `we_hi`: every word write, and a byte write at an odd address (R162). -/
def memWeHi (l : MemLatch) : Bool := memWrites l && (l.flag .dataSize || bit l.address 0)

/-- The write payload: the word, or the low byte in both halves (R163). -/
def memPayload (l : MemLatch) : Word :=
  if l.flag .dataSize then l.aluResult else range l.aluResult 7 0 ++ range l.aluResult 7 0

/-- `mem_data` of an access: the word, or the byte bit 0 of the address selects, sign-extended (R164). -/
def selectData (dataSize a0 : Bool) (readWord : Word) : Word :=
  if dataSize then readWord else if a0 then sext (range readWord 15 8) else sext (range readWord 7 0)

/-- `br_cond`, on the CC snapshot the latch carries (R167). -/
def memBrCond (l : MemLatch) : Bool := branchCond (bit l.ir 11) (bit l.ir 10) (bit l.ir 9) l.cc

/-- `mem_pc_mux`: TRAP_OP 2, else UNCOND_OP or a taken BR_OP 1, else 0; 0 for a bubble; not gated by `mem_stall` (R168). -/
def memPcMux (l : MemLatch) : BitVec 2 :=
  if !l.v then 0#2
  else if l.flag .trapOp then 2#2
  else if l.flag .uncondOp || (l.flag .brOp && memBrCond l) then 1#2
  else 0#2

/-- The signals MEM produces (10_state.md R38). -/
structure MemSignals where
  vDcacheEn : Bool
  weLo : Bool
  weHi : Bool
  dcacheR : Bool
  memStall : Bool
  memData : Word
  targetPc : Word
  trapPc : Word
  memPcMux : BitVec 2
  vMemLdReg : Bool
  vMemLdCc : Bool
  vMemBrStall : Bool
  memDrid : RegId
  deriving DecidableEq, Repr

/-- `IsBranchTaken()` (R170). -/
def branchTaken (g : MemSignals) : Bool := g.memPcMux != 0#2

/-- What the MEM stage answers: its signals, the memory after its access, the next SR latch, and the count of free
values. -/
structure MemResult where
  signals : MemSignals
  memory : Memory
  srNext : SrLatch
  draws : Nat
  deriving DecidableEq, Repr

/-- The data-port access of the cycle: made once when enabled, else no access and `dcache_r` counts as 1 (R161); the read
value of a cycle without an access is FREE (R164, log 6). -/
def memAccess (P : Params) (c : Nat) (m : Memory) (draws : Nat) (l : MemLatch) : DCacheResult :=
  if vDcacheEn l then dcacheAccess P c m l.address (memPayload l) (memWeLo l) (memWeHi l)
  else { readWord := Config.freeData draws, ready := true, memory := m }

/-- `mem_data` (R164). -/
def memData (P : Params) (c : Nat) (m : Memory) (draws : Nat) (l : MemLatch) : Word :=
  if vDcacheEn l then selectData (l.flag .dataSize) (bit l.address 0) (memAccess P c m draws l).readWord
  else (memAccess P c m draws l).readWord

/-- The signals of the stage (R161 to R169). -/
def memSignals (P : Params) (c : Nat) (m : Memory) (draws : Nat) (l : MemLatch) : MemSignals :=
  { vDcacheEn := vDcacheEn l
    weLo := memWeLo l
    weHi := memWeHi l
    dcacheR := (memAccess P c m draws l).ready
    memStall := vDcacheEn l && !(memAccess P c m draws l).ready
    memData := memData P c m draws l
    targetPc := l.address
    trapPc := memData P c m draws l
    memPcMux := memPcMux l
    vMemLdReg := l.v && l.flag .ldReg
    vMemLdCc := l.v && l.flag .ldCc
    vMemBrStall := l.v && l.flag .brStall
    memDrid := l.drid }

/-- `SR'`, written in every cycle; a stalled access sends a bubble (R172). -/
def srNext (g : MemSignals) (l : MemLatch) : SrLatch :=
  { v := l.v && !g.memStall
    ir := l.ir
    npc := l.npc
    aluResult := l.aluResult
    address := l.address
    data := g.memData
    drid := l.drid
    cs := srSlice l.cs }

/-- The MEM stage in cycle `c` (R160 to R172). -/
def memStage (P : Params) (c : Nat) (m : Memory) (draws : Nat) (l : MemLatch) : MemResult :=
  { signals := memSignals P c m draws l
    memory := (memAccess P c m draws l).memory
    srNext := srNext (memSignals P c m draws l) l
    draws := if vDcacheEn l then draws else draws + 1 }

end Sys2Proof.Machine
end

