-- ==== Sys2Proof/Machine/Ops.lean ====
section
/-! DEFINITION. The named operations over the state: registers, flags, memory, `pc`, and the shared effects of the
instruction rules (48_isa_operate.md R250, 49_isa_memory_control.md R270), with trap entry and return
(60_exceptions.md R302, R306). -/

namespace Sys2Proof.Machine

open Bits

/-- `x[r]` (00_scope.md R10): no register is hardwired or banked (10_state.md R20). -/
def State.reg (s : State) (r : RegId) : Word := s.regs[r.toNat]'(r.isLt)

/-- The register file with `x[r] <- v` (R10). -/
def writeReg (regs : Vector Word 8) (r : RegId) (v : Word) : Vector Word 8 := regs.set r.toNat v r.isLt

/-- `x[r] <- v` (R10). -/
def State.setReg (s : State) (r : RegId) (v : Word) : State := { s with regs := writeReg s.regs r v }

/-- `setcc(v)` (R10). -/
def State.setCC (s : State) (v : Word) : State := { s with cc := ccOf v }

/-- `pc <- t` (R10): used as it is, bit 0 not cleared (46_stage_decode_fetch.md R212). -/
def State.setPc (s : State) (t : Word) : State := { s with pc := t }

/-- Memory replaced by what a memory operation answered. -/
def State.setMemory (s : State) (m : Memory) : State := { s with memory := m }

/-- `NPC = (A + 2) mod 2^16` of the instruction at `pc` (R250, R270). -/
def State.npc (s : State) : Word := s.pc + 2#16

/-- `pc <- NPC`: what the sequential machine does unless the pseudocode writes `pc` (R287). -/
def State.advance (s : State) : State := s.setPc s.npc

/-- `x[DR] <- v; setcc(v)` and on to NPC: operates, shifts and loads. -/
def State.writeResult (s : State) (dr : RegId) (v : Word) : State := ((s.setReg dr v).setCC v).setPc s.npc

/-- `x[DR] <- v` without the flags and on to NPC: LEA (R261). -/
def State.writeAddress (s : State) (dr : RegId) (v : Word) : State := (s.setReg dr v).setPc s.npc

/-- A store's memory and on to NPC (R273, R274). -/
def State.store (s : State) (m : Memory) : State := (s.setMemory m).setPc s.npc

/-- `pc <- t` when the branch is taken, else `pc <- NPC` (R275). -/
def State.branchIf (s : State) (taken : Bool) (t : Word) : State := s.setPc (if taken then t else s.npc)

/-- The link register of JSR, JSRR and TRAP: the control store's DRMUX forces id 7 (10_state.md R20,
46_stage_decode_fetch.md R205). -/
def linkReg : RegId := 7#3

/-- `x[7] <- NPC; pc <- t`, `t` computed before R7 is written (R279, R280). -/
def State.callTo (s : State) (t : Word) : State := (s.setReg linkReg s.npc).setPc t

/-- TRAP ENTRY: the return address goes to R7 and control to the address held in the vector's word; no mode, flag or
other register changes (R282, R306). The spec describes no other entry of any kind (R300, R303). -/
def State.trapEnter (s : State) (trapvect8 : BitVec 8) : State :=
  s.callTo (memReadWord s.memory (trapVectorAddress trapvect8))

/-- TRAP RETURN: `pc <- x[7]`; it restores nothing else (R278, R306). -/
def State.trapReturn (s : State) : State := s.setPc (s.reg linkReg)

/-- A program file placed in the memory of a state, as the loader does before the first cycle (R96, R322; a file
that does not fit: log 34). -/
def State.loadFile (s : State) (base : WordAddr) (words : List Word) : State :=
  s.setMemory (s.memory.loadFile base words)

end Sys2Proof.Machine
end

