-- ==== Sys2Proof/Machine/StageSr.lean ====
section
/-! DEFINITION. The SR (store-result) stage and its write-back (43_stage_sr.md R150 to R155). It writes no latch and never
stalls. -/

namespace Sys2Proof.Machine

/-- The signals SR produces (10_state.md R38). -/
structure SrSignals where
  srRegData : Word
  srRegId : RegId
  srN : Bool
  srZ : Bool
  srP : Bool
  vSrLdReg : Bool
  vSrLdCc : Bool
  deriving DecidableEq, Repr

/-- `sr_reg_data`: DR_VALUEMUX 0 ADDRESS, 1 DATA, 2 NPC, 3 ALU_RESULT (R151). -/
def srRegData (l : SrLatch) : Word :=
  let mux := pairAt srFirst l.cs .drValueMux
  if mux = 0#2 then l.address
  else if mux = 1#2 then l.data
  else if mux = 2#2 then l.npc
  else l.aluResult

/-- The SR stage on its input latch; the enables are gated by the valid bit (R151 to R153). -/
def srStage (l : SrLatch) : SrSignals :=
  { srRegData := srRegData l
    srRegId := l.drid
    srN := flagN (srRegData l)
    srZ := flagZ (srRegData l)
    srP := flagP (srRegData l)
    vSrLdReg := l.v && flagAt srFirst l.cs .ldReg
    vSrLdCc := l.v && flagAt srFirst l.cs .ldCc }

/-- The register file after the write-back (R154). -/
def writeBackRegs (g : SrSignals) (regs : Vector Word 8) : Vector Word 8 :=
  if g.vSrLdReg then writeReg regs g.srRegId g.srRegData else regs

/-- The flags after the write-back: all three together (R154). -/
def writeBackCC (g : SrSignals) (cc : CC) : CC := if g.vSrLdCc then ⟨g.srN, g.srZ, g.srP⟩ else cc

end Sys2Proof.Machine
end

