-- ==== Sys2Proof/Machine/Hazard.lean ====
section
/-! DEFINITION. Hazard detection and stall logic: the dependency check and the pc-load condition
(47_hazard_stall.md R230 to R243). Nothing is forwarded. -/

namespace Sys2Proof.Machine

/-- `pending(i)`: an older instruction in AGEX, MEM or SR will write register `i` (R232). -/
def pending (a : AgexSignals) (m : MemSignals) (r : SrSignals) (i : RegId) : Bool :=
  (a.vAgexLdReg && a.agexDrid == i) || (m.vMemLdReg && m.memDrid == i) || (r.vSrLdReg && r.srRegId == i)

/-- An older instruction in AGEX, MEM or SR will write the flags (R232). -/
def ccPending (a : AgexSignals) (m : MemSignals) (r : SrSignals) : Bool := a.vAgexLdCc || m.vMemLdCc || r.vSrLdCc

/-- `dep_stall`, the source's `CheckForDataDependencies()` (R233). -/
def depStallOf (deV : Bool) (cw : ControlWord) (sr1Id sr2Id : RegId) (a : AgexSignals) (m : MemSignals)
    (r : SrSignals) : Bool :=
  deV && ((flagAt 0 cw .sr1Needed && pending a m r sr1Id) || (flagAt 0 cw .sr2Needed && pending a m r sr2Id) ||
    (flagAt 0 cw .brOp && ccPending a m r))

/-- `ld_pc`: no stall is detected; a MEM branch stall is waived when the transfer is taken (R236). -/
def ldPcOf (icacheR depStall memStall vAgexBrStall vDeBrStall vMemBrStall taken : Bool) : Bool :=
  icacheR && !depStall && !memStall && !vAgexBrStall && !vDeBrStall && !(vMemBrStall && !taken)

end Sys2Proof.Machine
end

