-- ==== Sys2Proof/Machine/StageDecode.lean ====
section
/-! DEFINITION. The DE stage: control-store lookup, register and flag reads, dependency check and the next AGEX latch
(46_stage_decode_fetch.md R200 to R209). -/

namespace Sys2Proof.Machine

open Bits

/-- `cw = UCODE[row]`, made on whatever the latch holds (R201). -/
def deControlWord (P : Params) (l : DeLatch) : ControlWord := getWord P (controlRow l.ir)

/-- `sr1_id = IR[8:6]` (R203). -/
def sr1Id (ir : Word) : RegId := fieldSR1 ir

/-- `sr2_id`: IR[13] = 1 selects IR[11:9], 0 selects IR[2:0] (R203, conflict C6). -/
def sr2Id (ir : Word) : RegId := if bit ir 13 then fieldDR ir else fieldSR2 ir

/-- `drid`: DRMUX 1 forces 7, 0 selects IR[11:9] (R205). -/
def dridOf (cw : ControlWord) (ir : Word) : RegId := if flagAt 0 cw .drMux then linkReg else fieldDR ir

/-- The signals DE produces (10_state.md R38). -/
structure DeSignals where
  depStall : Bool
  vDeBrStall : Bool
  deriving DecidableEq, Repr

/-- `dep_stall` and `v_de_br_stall` (R208, 47_hazard_stall.md R233). -/
def deSignals (P : Params) (l : DeLatch) (a : AgexSignals) (m : MemSignals) (r : SrSignals) : DeSignals :=
  { depStall := depStallOf l.v (deControlWord P l) (sr1Id l.ir) (sr2Id l.ir) a m r
    vDeBrStall := l.v && flagAt 0 (deControlWord P l) .brStall }

/-- `AGEX'`: the decoded instruction with the register and flag values of the start of the cycle, or under `mem_stall`
the AGEX latch's own content (R204, R206, R207). -/
def agexNext (P : Params) (memStall depStall : Bool) (l : DeLatch) (regs : Vector Word 8) (cc : CC)
    (held : AgexLatch) : AgexLatch :=
  if memStall then held
  else
    { v := l.v && !depStall
      ir := l.ir
      npc := l.npc
      sr1 := regs[(sr1Id l.ir).toNat]'((sr1Id l.ir).isLt)
      sr2 := regs[(sr2Id l.ir).toNat]'((sr2Id l.ir).isLt)
      cc := cc
      drid := dridOf (deControlWord P l) l.ir
      cs := agexSlice (deControlWord P l) }

end Sys2Proof.Machine
end

