-- ==== Sys2Proof/Machine/StageFetch.lean ====
section
/-! DEFINITION. The FETCH stage: instruction access, next pc and the next DE latch (46_stage_decode_fetch.md R210 to
R215). -/

namespace Sys2Proof.Machine

/-- `npc = (pc + 2) mod 2^16` (R211). -/
def nextSequential (pc : Word) : Word := pc + 2#16

/-- `new_pc`: 0 sequential, 1 `target_pc`, 2 `trap_pc`; 3 is never produced and counts as sequential (R212, log 9). -/
def newPc (mux : BitVec 2) (npc targetPc trapPc : Word) : Word :=
  if mux = 1#2 then targetPc else if mux = 2#2 then trapPc else npc

/-- `pc'` (R213). -/
def pcNext (ldPc : Bool) (pc newPcValue : Word) : Word := if ldPc then newPcValue else pc

/-- `DE'`: the fetched word, valid when `pc` was loaded and no transfer is in MEM, or under a stall of DE the latch's own
content (R214). -/
def deNext (depStall memStall ldPc vMemBrStall : Bool) (instr npc : Word) (held : DeLatch) : DeLatch :=
  if depStall || memStall then held else { v := ldPc && !vMemBrStall, ir := instr, npc := npc }

end Sys2Proof.Machine
end

