-- ==== Sys2Proof/Machine/Pipeline.lean ====
section
/-! DEFINITION. One clock cycle of the pipeline (42_pipeline_cycle.md R140 to R149): the five stages in the order Store,
Memory, AGEX, Decode, Fetch, each reading the current latches and the signals of the stages downstream of it, then the
clock edge; and the host's driver loop (70_reset_and_hazards.md R325, R327). -/

namespace Sys2Proof.Machine

/-- (1) SR, from the current SR latch (R143). -/
def cycleSr (s : State) : SrSignals := srStage s.sr

/-- (2) MEM, in cycle `CYCLE`, the one data-port access of the cycle (R143). -/
def cycleMem (P : Params) (s : State) : MemResult := memStage P s.cycleCount s.memory s.draws s.mem

/-- (3) AGEX (R143). -/
def cycleAgex (s : State) : AgexSignals := agexSignals s.agex

/-- (4) DE (R143). -/
def cycleDe (P : Params) (s : State) : DeSignals :=
  deSignals P s.de (cycleAgex s) (cycleMem P s).signals (cycleSr s)

/-- (5) The instruction-port access of the cycle, after the data access (R143, 20_memory.md R66). -/
def cycleFetch (P : Params) (s : State) : Word × Bool :=
  icacheAccess P s.cycleCount (cycleMem P s).memory s.pc

/-- `ld_pc` of the cycle (47_hazard_stall.md R236). -/
def cycleLdPc (P : Params) (s : State) : Bool :=
  ldPcOf (cycleFetch P s).2 (cycleDe P s).depStall (cycleMem P s).signals.memStall (cycleAgex s).vAgexBrStall
    (cycleDe P s).vDeBrStall (cycleMem P s).signals.vMemBrStall (branchTaken (cycleMem P s).signals)

/-- `new_pc` of the cycle (46_stage_decode_fetch.md R212). -/
def cycleNewPc (P : Params) (s : State) : Word :=
  newPc (cycleMem P s).signals.memPcMux (nextSequential s.pc) (cycleMem P s).signals.targetPc
    (cycleMem P s).signals.trapPc

/-- One clock cycle and its edge (R143 to R145): total and deterministic (R140). -/
def cycle (P : Params) (s : State) : State :=
  { pc := pcNext (cycleLdPc P s) s.pc (cycleNewPc P s)
    regs := writeBackRegs (cycleSr s) s.regs
    cc := writeBackCC (cycleSr s) s.cc
    memory := (cycleMem P s).memory
    cycleCount := s.cycleCount + 1
    de := deNext (cycleDe P s).depStall (cycleMem P s).signals.memStall (cycleLdPc P s)
      (cycleMem P s).signals.vMemBrStall (cycleFetch P s).1 (nextSequential s.pc) s.de
    agex := agexNext P (cycleMem P s).signals.memStall (cycleDe P s).depStall s.de s.regs s.cc s.agex
    mem := memNext (cycleMem P s).signals.memStall s.agex s.mem
    sr := (cycleMem P s).srNext
    run := s.run
    engine := s.engine
    draws := (cycleMem P s).draws }

/-- The per-cycle signal bundle, every signal of 10_state.md R38 that the host can query (60_exceptions.md R312). -/
structure Signals where
  sr : SrSignals
  mem : MemSignals
  agex : AgexSignals
  de : DeSignals
  icacheR : Bool
  ldPc : Bool
  deriving DecidableEq, Repr

/-- The signal bundle of the cycle that begins in `s`; reading it changes nothing (R149). -/
def signals (P : Params) (s : State) : Signals :=
  { sr := cycleSr s
    mem := (cycleMem P s).signals
    agex := cycleAgex s
    de := cycleDe P s
    icacheR := (cycleFetch P s).2
    ldPc := cycleLdPc P s }

/-- `n` clock cycles, whatever the host would do. -/
def cycles (P : Params) : Nat → State → State
  | 0, s => s
  | n + 1, s => cycles P n (cycle P s)

/-- One turn of the host's loop: the cycle, and `RUN <- 0` after it if `pc` was 0x0000 before it (R325). -/
def hostCycle (P : Params) (s : State) : State :=
  if s.pc = 0x0000#16 then { cycle P s with run := false } else cycle P s

/-- `run(n_cycles)`: at most `n` turns, stopping at the end of the run (R327). -/
def hostRun (P : Params) : Nat → State → State
  | 0, s => s
  | n + 1, s => if s.run then hostRun P n (hostCycle P s) else s

/-- `run_to_halt` within a budget of `n` cycles is `run(n)`; the run has ended when `RUN = 0` (R327, R328). -/
def runEnds (P : Params) (n : Nat) (s : State) : Bool := !(hostRun P n s).run

end Sys2Proof.Machine
end

