-- ==== Sys2Proof/Machine/Control.lean ====
section
/-! DEFINITION. The control transfers: BR, NOP, JMP, RET, JSR, JSRR (49_isa_memory_control.md R275 to R281). Targets are used
as they are: not aligned, not checked (R281 (c)). -/

namespace Sys2Proof.Machine

open Bits

/-- BR: `if (n and N) or (z and Z) or (p and P) then pc <- NPC + (sext_9(PCoffset9) << 1)` (R275). -/
def execBr (n z p : Bool) (pcOffset9 : BitVec 9) (s : State) : Host.Outcome State Fault Refusal :=
  .next (s.branchIf (branchCond n z p s.cc) (pcRelative s.npc pcOffset9))

/-- NOP: no state changes but `pc <- NPC` (R276). -/
def execNop (s : State) : Host.Outcome State Fault Refusal := .next s.advance

/-- JMP: `pc <- x[BaseR]` (R277). -/
def execJmp (baseR : RegId) (s : State) : Host.Outcome State Fault Refusal := .next (s.setPc (s.reg baseR))

/-- RET: `pc <- x[7]` (R278). -/
def execRet (s : State) : Host.Outcome State Fault Refusal := .next s.trapReturn

/-- JSR: `x[7] <- NPC; pc <- NPC + (sext_11(PCoffset11) << 1)` (R279). -/
def execJsr (pcOffset11 : BitVec 11) (s : State) : Host.Outcome State Fault Refusal :=
  .next (s.callTo (pcRelative s.npc pcOffset11))

/-- JSRR: `t = x[BaseR]; x[7] <- NPC; pc <- t` (R280). -/
def execJsrr (baseR : RegId) (s : State) : Host.Outcome State Fault Refusal := .next (s.callTo (s.reg baseR))

end Sys2Proof.Machine
end

