-- ==== Sys2Proof/Machine/LoadStore.lean ====
section
/-! DEFINITION. The loads and stores (49_isa_memory_control.md R270 to R274). No access faults, whatever its address or
alignment (R270 (c), 20_memory.md R55). -/

namespace Sys2Proof.Machine

open Bits

/-- LDB: `addr = x[BaseR] + sext_6(boffset6); v = sext_8(MemRead(addr, 1)); x[DR] <- v; setcc(v)` (R271). -/
def execLdb (dr baseR : RegId) (boffset6 : BitVec 6) (s : State) : Host.Outcome State Fault Refusal :=
  .next (s.writeResult dr (sext (memReadByte s.memory (byteAddress (s.reg baseR) boffset6))))

/-- LDW: `addr = x[BaseR] + (sext_6(offset6) << 1); v = MemRead(addr, 2); x[DR] <- v; setcc(v)` (R272). -/
def execLdw (dr baseR : RegId) (offset6 : BitVec 6) (s : State) : Host.Outcome State Fault Refusal :=
  .next (s.writeResult dr (memReadWord s.memory (wordAddress (s.reg baseR) offset6)))

/-- STB: `MemWrite(addr, 1, x[SR][7:0])` (R273). -/
def execStb (sr baseR : RegId) (boffset6 : BitVec 6) (s : State) : Host.Outcome State Fault Refusal :=
  .next (s.store (memWriteByte s.memory (byteAddress (s.reg baseR) boffset6) (range (s.reg sr) 7 0)))

/-- STW: `MemWrite(addr, 2, x[SR])` (R274). -/
def execStw (sr baseR : RegId) (offset6 : BitVec 6) (s : State) : Host.Outcome State Fault Refusal :=
  .next (s.store (memWriteWord s.memory (wordAddress (s.reg baseR) offset6) (s.reg sr)))

end Sys2Proof.Machine
end

