-- ==== Sys2Proof/Machine/Operate.lean ====
section
/-! DEFINITION. The operate instructions: ADD, AND, XOR, NOT, the shifts, LEA (48_isa_operate.md R250 to R261). Each meaning
is the rule's pseudocode on the architectural state, then `pc <- NPC` (log 1). -/

namespace Sys2Proof.Machine

open Bits

/-- ADD, register form: `v = x[SR1] + x[SR2]; x[DR] <- v; setcc(v)` (R251). -/
def execAddReg (dr sr1 sr2 : RegId) (s : State) : Host.Outcome State Fault Refusal :=
  .next (s.writeResult dr (alu 0#2 (s.reg sr1) (s.reg sr2)))

/-- ADD, immediate form: `v = x[SR1] + sext_5(imm5)` (R252). -/
def execAddImm (dr sr1 : RegId) (imm5 : BitVec 5) (s : State) : Host.Outcome State Fault Refusal :=
  .next (s.writeResult dr (alu 0#2 (s.reg sr1) (sext imm5)))

/-- AND, register form: `v = x[SR1] & x[SR2]` (R253). -/
def execAndReg (dr sr1 sr2 : RegId) (s : State) : Host.Outcome State Fault Refusal :=
  .next (s.writeResult dr (alu 1#2 (s.reg sr1) (s.reg sr2)))

/-- AND, immediate form: `v = x[SR1] & sext_5(imm5)` (R254). -/
def execAndImm (dr sr1 : RegId) (imm5 : BitVec 5) (s : State) : Host.Outcome State Fault Refusal :=
  .next (s.writeResult dr (alu 1#2 (s.reg sr1) (sext imm5)))

/-- XOR, register form: `v = x[SR1] ^ x[SR2]` (R255). -/
def execXorReg (dr sr1 sr2 : RegId) (s : State) : Host.Outcome State Fault Refusal :=
  .next (s.writeResult dr (alu 2#2 (s.reg sr1) (s.reg sr2)))

/-- XOR, immediate form: `v = x[SR1] ^ sext_5(imm5)` (R256). -/
def execXorImm (dr sr1 : RegId) (imm5 : BitVec 5) (s : State) : Host.Outcome State Fault Refusal :=
  .next (s.writeResult dr (alu 2#2 (s.reg sr1) (sext imm5)))

/-- NOT: `v = x[SR] ^ 0xFFFF` (R257). -/
def execNotReg (dr sr : RegId) (s : State) : Host.Outcome State Fault Refusal :=
  .next (s.writeResult dr (alu 2#2 (s.reg sr) 0xFFFF#16))

/-- LSHF: `v = x[SR] << amount4` (R258). -/
def execLshf (dr sr : RegId) (amount4 : BitVec 4) (s : State) : Host.Outcome State Fault Refusal :=
  .next (s.writeResult dr (shiftLeft (s.reg sr) amount4))

/-- RSHFL: `v = x[SR] >> amount4`, zeros entering at bit 15 (R259). -/
def execRshfl (dr sr : RegId) (amount4 : BitVec 4) (s : State) : Host.Outcome State Fault Refusal :=
  .next (s.writeResult dr (shiftRightLogical (s.reg sr) amount4))

/-- RSHFA: the same with the sign bit entering (R260). -/
def execRshfa (dr sr : RegId) (amount4 : BitVec 4) (s : State) : Host.Outcome State Fault Refusal :=
  .next (s.writeResult dr (shiftRightArith (s.reg sr) amount4))

/-- LEA: `x[DR] <- NPC + (sext_9(PCoffset9) << 1)`; the flags are not written (R261). -/
def execLea (dr : RegId) (pcOffset9 : BitVec 9) (s : State) : Host.Outcome State Fault Refusal :=
  .next (s.writeAddress dr (pcRelative s.npc pcOffset9))

end Sys2Proof.Machine
end

