-- ==== Sys2Proof/Machine/Trap.lean ====
section
/-! DEFINITION. TRAP and HALT (49_isa_memory_control.md R282, R283) and the opcodes with no function (R284, R285). -/

namespace Sys2Proof.Machine

/-- TRAP: `x[7] <- NPC; pc <- MemRead(zext_8(trapvect8) << 1, 2)` (R282). -/
def execTrap (trapvect8 : BitVec 8) (s : State) : Host.Outcome State Fault Refusal := .next (s.trapEnter trapvect8)

/-- HALT: TRAP with vector x25; it halts only when the vector word is 0x0000 (R283). -/
def execHalt (s : State) : Host.Outcome State Fault Refusal := .next (s.trapEnter 0x25#8)

/-- RTI: the datapath has nothing to return from; no effect but `pc <- NPC` (R284). -/
def execRti (s : State) : Host.Outcome State Fault Refusal := .next s.advance

/-- Opcode 1010: as RTI, no trap (R285). -/
def execReserved1010 (s : State) : Host.Outcome State Fault Refusal := .next s.advance

/-- Opcode 1011: as RTI, no trap (R285). -/
def execReserved1011 (s : State) : Host.Outcome State Fault Refusal := .next s.advance

end Sys2Proof.Machine
end

