-- ==== Sys2Proof/Machine/Dispatch.lean ====
section
/-! DEFINITION. Which meaning each instruction has: the instruction rules of 48_isa_operate.md and
49_isa_memory_control.md, under `UCODE_REF` (00_scope.md R12). -/

namespace Sys2Proof.Machine

def exec (i : Instr) (s : State) : Host.Outcome State Fault Refusal :=
  match i with
  | .addReg dr sr1 sr2 => Sys2Proof.Machine.execAddReg dr sr1 sr2 s
  | .addImm dr sr1 imm5 => Sys2Proof.Machine.execAddImm dr sr1 imm5 s
  | .andReg dr sr1 sr2 => Sys2Proof.Machine.execAndReg dr sr1 sr2 s
  | .andImm dr sr1 imm5 => Sys2Proof.Machine.execAndImm dr sr1 imm5 s
  | .xorReg dr sr1 sr2 => Sys2Proof.Machine.execXorReg dr sr1 sr2 s
  | .xorImm dr sr1 imm5 => Sys2Proof.Machine.execXorImm dr sr1 imm5 s
  | .notReg dr sr => Sys2Proof.Machine.execNotReg dr sr s
  | .lshf dr sr amount4 => Sys2Proof.Machine.execLshf dr sr amount4 s
  | .rshfl dr sr amount4 => Sys2Proof.Machine.execRshfl dr sr amount4 s
  | .rshfa dr sr amount4 => Sys2Proof.Machine.execRshfa dr sr amount4 s
  | .lea dr pcOffset9 => Sys2Proof.Machine.execLea dr pcOffset9 s
  | .ldb dr baseR boffset6 => Sys2Proof.Machine.execLdb dr baseR boffset6 s
  | .ldw dr baseR offset6 => Sys2Proof.Machine.execLdw dr baseR offset6 s
  | .stb sr baseR boffset6 => Sys2Proof.Machine.execStb sr baseR boffset6 s
  | .stw sr baseR offset6 => Sys2Proof.Machine.execStw sr baseR offset6 s
  | .br n z p pcOffset9 => Sys2Proof.Machine.execBr n z p pcOffset9 s
  | .nop => Sys2Proof.Machine.execNop s
  | .jmp baseR => Sys2Proof.Machine.execJmp baseR s
  | .ret => Sys2Proof.Machine.execRet s
  | .jsr pcOffset11 => Sys2Proof.Machine.execJsr pcOffset11 s
  | .jsrr baseR => Sys2Proof.Machine.execJsrr baseR s
  | .trap trapvect8 => Sys2Proof.Machine.execTrap trapvect8 s
  | .halt => Sys2Proof.Machine.execHalt s
  | .rti => Sys2Proof.Machine.execRti s
  | .reserved1010 => Sys2Proof.Machine.execReserved1010 s
  | .reserved1011 => Sys2Proof.Machine.execReserved1011 s

end Sys2Proof.Machine
end

