-- ==== Sys2Proof/Machine/Sequential.lean ====
section
/-! DEFINITION. The sequential LC-3b machine of 49_isa_memory_control.md R287: one instruction at a time from `pc`, stopping
when `pc = 0x0000`. -/

namespace Sys2Proof.Machine

/-- The instruction word at `pc`: the word that contains the addressed byte (30_encoding.md R80, 10_state.md R24). -/
def fetchWord (s : State) : Word := memReadWord s.memory s.pc

/-- The instruction at `pc`: every word is one (30_encoding.md R89). -/
def fetchInstr (s : State) : Instr := decodeWord (fetchWord s)

/-- The machine has stopped (R287). -/
def State.stop (s : State) : State := { s with run := false }

/-- One step of the sequential machine: it stops when `pc = 0x0000`, else it executes the instruction at `pc` (R287,
log 7). -/
def sequentialStep (s : State) : Host.Outcome State Fault Refusal :=
  if s.pc = 0x0000#16 then .next s.stop else exec (fetchInstr s) s

/-- A state whose next sequential step runs the word `w`: the word lies at `pc` (at `PC_INIT` when `pc` is the halt
address), and the sequential machine is selected and running (log 8). -/
def State.withWordAtPc (s : State) (w : Word) : State :=
  { s with
    pc := if s.pc = 0x0000#16 then pcInitValue else s.pc
    memory := memWriteWord s.memory (if s.pc = 0x0000#16 then pcInitValue else s.pc) w
    run := true
    engine := .sequential }

end Sys2Proof.Machine
end

