-- ==== Sys2Proof/Machine/Step.lean ====
section
/-! DEFINITION. One step of the machine: one clock cycle of the pipeline under the host's loop (42_pipeline_cycle.md R140,
70_reset_and_hazards.md R325), or one instruction of the sequential machine (49_isa_memory_control.md R287), as `engine`
says (log 1). -/

namespace Sys2Proof.Machine

/-- One step: refused once the run has ended (R327, log 7), otherwise always a next state (60_exceptions.md R300). -/
def step (s : State) : Host.Outcome State Fault Refusal :=
  if s.run then
    match s.engine with
    | .pipeline => .next (hostCycle referenceParams s)
    | .sequential => sequentialStep s
  else .refused .runEnded

/-- `s` with the instruction whose bits are `w` (numbered as spec/opcode_table.json numbers them) placed so that the next
step fetches and runs exactly it (log 8). -/
def State.withFetchWord (s : State) (nbits w : Nat) : State := s.withWordAtPc (tableWord nbits w)

end Sys2Proof.Machine
end

