-- ==== Sys2Proof/Safety.lean ====
section
/-! DEFINITION. The terms the claims use: frames, invariants of the pipeline, and the premises of 49_isa_memory_control.md
R287. -/

namespace Sys2Proof.Machine

open Bits

/-- What every step keeps, whichever machine moves: memory in its canonical form, exactly one of N, Z, P set (10_state.md
R25). -/
def State.Inv (s : State) : Prop := s.memory.wf = true ∧ s.cc.oneHot = true

/-- Every register but `dr` holds the same value. -/
def KeepsRegsBut (dr : RegId) (s t : State) : Prop := ∀ r : RegId, r ≠ dr → t.reg r = s.reg r

/-- Every register holds the same value. -/
def KeepsRegs (s t : State) : Prop := ∀ r : RegId, t.reg r = s.reg r

/-- Every byte of memory reads the same. -/
def KeepsMemory (s t : State) : Prop := ∀ a : Word, t.memory.byte a = s.memory.byte a

/-- The pipeline's own state, the host's bit and the model's own fields are the same. -/
def KeepsPipeline (s t : State) : Prop :=
  t.cycleCount = s.cycleCount ∧ t.de = s.de ∧ t.agex = s.agex ∧ t.mem = s.mem ∧ t.sr = s.sr ∧ t.run = s.run ∧
    t.engine = s.engine ∧ t.draws = s.draws

/-- The flags say the sign of a value as a 16-bit two's-complement number (43_stage_sr.md R152). -/
def FlagsOf (v : Word) (cc : CC) : Prop :=
  (cc.n = true ↔ v.toInt < 0) ∧ (cc.z = true ↔ v.toInt = 0) ∧ (cc.p = true ↔ 0 < v.toInt)

/-- No instruction is in the pipeline: every latch is a bubble (10_state.md R37). -/
def Drained (s : State) : Prop := s.de.v = false ∧ s.agex.v = false ∧ s.mem.v = false ∧ s.sr.v = false

/-- No younger instruction stands behind a BR_STALL instruction that is in AGEX or MEM (47_hazard_stall.md R235, R239). -/
def NoYoungerBehindTransfer (s : State) : Prop :=
  (s.agex.v = true → s.agex.flag .brStall = true → s.de.v = false) ∧
    (s.mem.v = true → s.mem.flag .brStall = true → s.agex.v = false ∧ s.de.v = false)

/-- The flag snapshot a conditional branch carries equals the live flags, and no older flag write is pending (44_stage_mem.md
R167). -/
def BranchSnapshotsLive (s : State) : Prop :=
  (s.agex.v = true → s.agex.flag .brOp = true →
    s.agex.cc = s.cc ∧ ¬(s.mem.v = true ∧ s.mem.flag .ldCc = true) ∧ (srStage s.sr).vSrLdCc = false) ∧
  (s.mem.v = true → s.mem.flag .brOp = true → s.mem.cc = s.cc ∧ (srStage s.sr).vSrLdCc = false)

/-- The instructions in the latches upstream of SR, oldest first, each with its word and its NPC. -/
def upstreamOfSr (s : State) : List (Word × Word) :=
  (if s.mem.v then [(s.mem.ir, s.mem.npc)] else []) ++ (if s.agex.v then [(s.agex.ir, s.agex.npc)] else []) ++
    (if s.de.v then [(s.de.ir, s.de.npc)] else [])

/-- All instructions in the pipeline, oldest first (42_pipeline_cycle.md R146). -/
def inFlight (s : State) : List (Word × Word) :=
  (if s.sr.v then [(s.sr.ir, s.sr.npc)] else []) ++ upstreamOfSr s

/-- The word FETCH makes a valid instruction in this cycle, if any (46_stage_decode_fetch.md R214). -/
def fetchedThisCycle (P : Params) (s : State) : List (Word × Word) :=
  if cycleLdPc P s && !(cycleMem P s).signals.vMemBrStall then [((cycleFetch P s).1, nextSequential s.pc)] else []

/-- A taken transfer is resolved in MEM in this cycle and the instruction port is not ready: the redirect is lost
(47_hazard_stall.md R240). -/
def redirectLost (P : Params) (s : State) : Bool :=
  (cycleMem P s).signals.vMemBrStall && branchTaken (cycleMem P s).signals && !(cycleMem P s).signals.memStall &&
    !P.icacheReady s.cycleCount

/-- A store is performed in MEM in this cycle into the word that a valid instruction in DE or AGEX was fetched from
(20_memory.md R68, premise Q3 of R287). -/
def staleFetch (P : Params) (s : State) : Bool :=
  (memWeLo s.mem || memWeHi s.mem) && P.dcacheReady s.cycleCount &&
    ((s.de.v && wordAddr (s.de.npc - 2#16) == wordAddr s.mem.address) ||
      (s.agex.v && wordAddr (s.agex.npc - 2#16) == wordAddr s.mem.address))

/-- A list of instructions executed one after another by `exec`. -/
def execAll : List Instr → State → Host.Outcome State Fault Refusal
  | [], s => .next s
  | i :: rest, s =>
    match exec i s with
    | .next t => execAll rest t
    | .fault r => .fault r
    | .refused r => .refused r

/-- `k` steps of the sequential machine. -/
def sequentialRun : Nat → State → Host.Outcome State Fault Refusal
  | 0, s => .next s
  | k + 1, s =>
    match sequentialStep s with
    | .next t => sequentialRun k t
    | .fault r => .fault r
    | .refused r => .refused r

/-- Does the instruction's row of `UCODE_REF` set BR_STALL (47_hazard_stall.md R235)? -/
def isTransfer : Instr → Bool
  | .addReg _ _ _ => false
  | .addImm _ _ _ => false
  | .andReg _ _ _ => false
  | .andImm _ _ _ => false
  | .xorReg _ _ _ => false
  | .xorImm _ _ _ => false
  | .notReg _ _ => false
  | .lshf _ _ _ => false
  | .rshfl _ _ _ => false
  | .rshfa _ _ _ => false
  | .lea _ _ => false
  | .ldb _ _ _ => false
  | .ldw _ _ _ => false
  | .stb _ _ _ => false
  | .stw _ _ _ => false
  | .br _ _ _ _ => true
  | .nop => true
  | .jmp _ => true
  | .ret => true
  | .jsr _ => true
  | .jsrr _ => true
  | .trap _ => true
  | .halt => true
  | .rti => false
  | .reserved1010 => false
  | .reserved1011 => false

end Sys2Proof.Machine
end

