-- ==== Sys2Proof/Certificates/Slice0/Obligations.lean ====
section
/-! DEFINITION. The statements for the provers. Almost every rule of this spec is marked by the spec itself as its own
decision or inference ([decision: ...], [derived: ...]); a statement resting on such a rule has basis 'derived' and its
docstring names the rule. Statements about `step` on the pipeline rest on the reference parameters of log 2. -/

open Sys2Proof Sys2Proof.Machine Sys2Proof.Machine.Bits

/-! ### Encoding -/

/-- Every well-formed instruction, with every operand at every value, is read back from the bytes of its word, and the bytes
behind them are left (30_encoding.md R80, R88; the encoder writes 0 in the bits the decoder drops, log 11). -/
def Obligations.DecodeEncodeRoundTrip : Prop :=
  ∀ (i : Instr) (rest : List Byte), i.wellFormed = true →
    decodeWord (encode i) = i ∧ decode (bytesOfWord (encode i) ++ rest) = .ok (i, rest)

/-- Every word decodes to a well-formed instruction (30_encoding.md R89), and encoding that instruction gives back every bit
of the word but those of `ignoredBits`, which come back 0: the bits that R90 lists as not read and R82 marks so for the
opcodes 1010 and 1011, and IR[5] of a left shift. That IR[5] of a left shift may be dropped is the model's reading (DEDUCED,
log 11): R90 does not list it and R81 says the datapath reads it, but by 45_stage_agex.md R187 and 48_isa_operate.md R258 it
has no influence when IR[4] is 0. -/
def Obligations.EncodeDecodeKeepsReadBits : Prop :=
  ∀ w : Word, (decodeWord w).wellFormed = true ∧ encode (decodeWord w) = w &&& ~~~(ignoredBits (decodeWord w))

/-- The decoder follows the opcode table: the word matches the row it picks, and any other row the word matches has a
mask inside that row's mask, so an alias row is picked before the row it aliases (R87; log 10). -/
def Obligations.DecodePicksMostSpecificTableRow : Prop :=
  ∀ w : Word, w &&& (tableRow (decodeWord w)).1 = (tableRow (decodeWord w)).2 ∧
    ∀ i : Instr, w &&& (tableRow i).1 = (tableRow i).2 →
      (tableRow i).1 &&& (tableRow (decodeWord w)).1 = (tableRow i).1

/-- A word that differs only in bits the hardware does not read is the same instruction (30_encoding.md R90; R82 for the
opcodes 1010 and 1011). That IR[5] of a left shift is such a bit is the model's reading (DEDUCED, log 11): R90 does not list
it and R81 says the datapath reads it, but by 45_stage_agex.md R187 and 48_isa_operate.md R258 it has no influence when
IR[4] is 0. -/
def Obligations.IgnoredBitsDecodeAlike : Prop :=
  ∀ w w' : Word, (w ^^^ w') &&& ~~~(ignoredBits (decodeWord w)) = 0#16 → decodeWord w' = decodeWord w

/-- Words the spec writes out, each with the instruction it says it is (R88, R94, 48_isa_operate.md, 49_isa_memory_control.md),
and fewer than two bytes are no instruction (the model's choice, log 11). -/
def Obligations.SpecWordsDecode : Prop :=
  decodeWord 0x1283#16 = .addReg 1 2 3 ∧ decodeWord 0x1261#16 = .addImm 1 1 1 ∧
    decodeWord 0x5283#16 = .andReg 1 2 3 ∧ decodeWord 0x5260#16 = .andImm 1 1 0 ∧
    decodeWord 0x9283#16 = .xorReg 1 2 3 ∧ decodeWord 0x9261#16 = .xorImm 1 1 1 ∧ decodeWord 0x927F#16 = .notReg 1 1 ∧
    decodeWord 0xD283#16 = .lshf 1 2 3 ∧ decodeWord 0xD293#16 = .rshfl 1 2 3 ∧ decodeWord 0xD2B3#16 = .rshfa 1 2 3 ∧
    decodeWord 0xE002#16 = .lea 0 2 ∧ decodeWord 0x2041#16 = .ldb 0 1 1 ∧ decodeWord 0x607F#16 = .ldw 0 1 0x3F ∧
    decodeWord 0x3441#16 = .stb 2 1 1 ∧ decodeWord 0x7FBF#16 = .stw 7 6 0x3F ∧
    decodeWord 0x0403#16 = .br false true false 3 ∧ decodeWord 0x0000#16 = .nop ∧ decodeWord 0xC0C0#16 = .jmp 3 ∧
    decodeWord 0xC1C0#16 = .ret ∧ decodeWord 0x4802#16 = .jsr 2 ∧ decodeWord 0x4080#16 = .jsrr 2 ∧
    decodeWord 0xF030#16 = .trap 0x30 ∧ decodeWord 0xF025#16 = .halt ∧ decodeWord 0x8000#16 = .rti ∧
    decodeWord 0xAFFF#16 = .reserved1010 ∧ decodeWord 0xB123#16 = .reserved1011 ∧
    decode [] = .error .truncated ∧ decode [0x83#8] = .error .truncated

/-! ### The step, the host and reset -/

/-- A STEP RUNS THE DECODED INSTRUCTION: when the sequential machine runs and the two bytes of the word at `pc` (bit 0 of
`pc` ignored, 10_state.md R24, 20_memory.md R55) decode to `i`, the step is `exec i` (49_isa_memory_control.md R287). `exec`
itself moves `pc`; the step adds nothing. That a step can be this machine's is the model's choice (log 1). -/
def Obligations.StepRunsDecodedInstruction : Prop :=
  ∀ (s : State) (low high : Byte) (i : Instr), s.run = true → s.engine = .sequential → s.pc ≠ 0x0000#16 →
    s.memory.byte (s.pc &&& 0xFFFE#16) = low → s.memory.byte (s.pc ||| 0x0001#16) = high →
    decode [low, high] = .ok (i, []) → step s = exec i s

/-- On the pipeline a step is one clock cycle under the host's loop: before the cycle the host looks at `pc`, and when it was
0x0000 the cycle is the last one (42_pipeline_cycle.md R140, 70_reset_and_hazards.md R325, a decision of the spec). The cycle
counter rises by one and neither `RUN` nor `engine` is moved by the datapath (R145). -/
def Obligations.PipelineStepIsOneHostCycle : Prop :=
  (∀ s : State, s.run = true → s.engine = .pipeline →
    (s.pc ≠ 0x0000#16 → step s = .next (cycle referenceParams s)) ∧
      (s.pc = 0x0000#16 → step s = .next { cycle referenceParams s with run := false })) ∧
    ∀ (P : Params) (s : State), (cycle P s).cycleCount = s.cycleCount + 1 ∧ (cycle P s).run = s.run ∧
      (cycle P s).engine = s.engine

/-- The sequential machine stops when `pc = 0x0000` (49_isa_memory_control.md R287): that step changes `RUN` only, and the host
has no step after it (70_reset_and_hazards.md R327). That the stop takes a step is the model's choice (log 7). -/
def Obligations.SequentialStopsAtZero : Prop :=
  ∀ s : State, s.run = true → s.engine = .sequential → s.pc = 0x0000#16 →
    step s = .next { s with run := false } ∧ step { s with run := false } = .refused .runEnded

/-- Every step of a running machine answers a next state: no fault, no other refusal (60_exceptions.md R300, a decision of the
spec). After the end of the run the host has no move (R327; the refusal is the model's choice, log 7). -/
def Obligations.StepAnswersUnlessRunEnded : Prop :=
  ∀ s : State, (s.run = true → ∃ t, step s = .next t) ∧ (s.run = false → step s = .refused .runEnded)

/-- The host's run is the pipeline's cycles until `pc` is 0x0000 at the start of one, runs exactly one cycle more and ends
there, whatever budget is left (70_reset_and_hazards.md R325, R327, decisions of the spec). -/
def Obligations.HostStopsOneCycleAfterZero : Prop :=
  ∀ (P : Params) (s : State) (n : Nat), s.run = true →
    ((∀ k < n, (cycles P k s).pc ≠ 0x0000#16) → hostRun P n s = cycles P n s) ∧
      ∀ k < n, (∀ j < k, (cycles P j s).pc ≠ 0x0000#16) → (cycles P k s).pc = 0x0000#16 →
        hostRun P n s = { cycles P (k + 1) s with run := false }

/-- The state after `initialize` for any reset parameters, every field of State, and the values State.reset takes
(10_state.md R40 to R47, 70_reset_and_hazards.md R321). The values of `pc`, the registers, the flags and memory are decisions
of the spec or the model's choices (log 3, log 4, log 5); `engine` and `draws` are the model's own fields, and their values
the model's choices (log 1, log 6). -/
def Obligations.ResetState : Prop :=
  (∀ R : ResetParams,
    let s := State.initial R
    s.pc = R.pcInit ∧ s.regs = R.regInit ∧ s.cc = R.ccInit ∧ s.memory = R.memInit ∧ s.cycleCount = 0 ∧ s.run = true ∧
      s.de = ⟨false, 0, 0⟩ ∧ s.agex = ⟨false, 0, 0, 0, 0, ⟨false, false, false⟩, 0, 0⟩ ∧
      s.mem = ⟨false, 0, 0, 0, 0, ⟨false, false, false⟩, 0, 0⟩ ∧ s.sr = ⟨false, 0, 0, 0, 0, 0, 0, 0⟩ ∧ Drained s ∧
      s.engine = .pipeline ∧ s.draws = 0) ∧
    State.reset.pc = 0x3000#16 ∧ (∀ r : RegId, State.reset.reg r = 0x0000#16) ∧
    State.reset.cc = ⟨false, true, false⟩ ∧ ∀ a : Word, State.reset.memory.byte a = 0x00#8

/-- The three invariants hold at reset (10_state.md R41; the flags by R44, a decision of the spec, log 4). -/
def Obligations.ResetMeetsInvariants : Prop :=
  State.reset.Inv ∧ NoYoungerBehindTransfer State.reset ∧ BranchSnapshotsLive State.reset

/-! ### Invariants of the whole machine -/

/-- Every step of either machine keeps memory in its canonical form (log 5) and exactly one of N, Z, P set (10_state.md R25, whose
second half the spec derives). -/
def Obligations.StepKeepsInvariant : Prop :=
  ∀ s t : State, s.Inv → step s = .next t → t.Inv

/-- No wrong-path instruction: for every control-store image and every pair of ready predicates, a cycle keeps the property
that nothing younger stands behind a BR_STALL instruction in AGEX or MEM (47_hazard_stall.md R235, R239, derived by the
spec). -/
def Obligations.CycleKeepsNoYoungerBehindTransfer : Prop :=
  ∀ (P : Params) (s : State), NoYoungerBehindTransfer s → NoYoungerBehindTransfer (cycle P s)

/-- A conditional branch is tested on the live flags: a cycle keeps the property that the snapshot a branch carries equals
N, Z, P with no older flag write pending, so its test in MEM is the test of the live flags (44_stage_mem.md R167, derived by
the spec). -/
def Obligations.CycleKeepsBranchSnapshotsLive : Prop :=
  (∀ (P : Params) (s : State), BranchSnapshotsLive s → BranchSnapshotsLive (cycle P s)) ∧
    ∀ s : State, BranchSnapshotsLive s → s.mem.v = true → s.mem.flag .brOp = true →
      memBrCond s.mem = branchCond (bit s.mem.ir 11) (bit s.mem.ir 10) (bit s.mem.ir 9) s.cc

/-- No instruction is lost, duplicated or reordered: in every cycle the occupant of SR leaves, the others stay in order, and
at most the word FETCH makes valid is added behind them, each with its own word and NPC (47_hazard_stall.md R238, derived by
the spec). -/
def Obligations.InFlightQueueAdvances : Prop :=
  ∀ (P : Params) (s : State), inFlight (cycle P s) = upstreamOfSr s ++ fetchedThisCycle P s

/-! ### The stages -/

/-- `sr_reg_id` is the latch's DRID, the two enables are its LD_REG and LD_CC bits gated by its valid bit, and a bubble in SR
writes nothing and is no dependency source of registers or flags (43_stage_sr.md R153). -/
def Obligations.StoreStageEnables : Prop :=
  ∀ (P : Params) (s : State),
    (signals P s).sr.srRegId = s.sr.drid ∧
      (signals P s).sr.vSrLdReg = (s.sr.v && flagAt srFirst s.sr.cs .ldReg) ∧
      (signals P s).sr.vSrLdCc = (s.sr.v && flagAt srFirst s.sr.cs .ldCc) ∧
      (s.sr.v = false → (cycle P s).regs = s.regs ∧ (cycle P s).cc = s.cc ∧
        (∀ r, pending (signals P s).agex (signals P s).mem (signals P s).sr r =
          (((signals P s).agex.vAgexLdReg && (signals P s).agex.agexDrid == r) ||
            ((signals P s).mem.vMemLdReg && (signals P s).mem.memDrid == r))) ∧
        ccPending (signals P s).agex (signals P s).mem (signals P s).sr =
          ((signals P s).agex.vAgexLdCc || (signals P s).mem.vMemLdCc))

/-- The write-back: the value DR_VALUEMUX selects goes to the destination register, its sign to the flags, each under its
own enable, and every other register keeps its value (43_stage_sr.md R151, R152, R154). The order of the four inputs is a
decision of the spec. -/
def Obligations.WriteBackAtTheEdge : Prop :=
  ∀ (P : Params) (s : State),
    let v := if s.sr.cs.getLsbD 0 then (if s.sr.cs.getLsbD 1 then s.sr.aluResult else s.sr.npc)
      else (if s.sr.cs.getLsbD 1 then s.sr.data else s.sr.address)
    (∀ r : RegId, (cycle P s).reg r =
      if s.sr.v = true ∧ s.sr.cs.getLsbD 2 = true ∧ r = s.sr.drid then v else s.reg r) ∧
      (s.sr.v = true → s.sr.cs.getLsbD 3 = true → FlagsOf v (cycle P s).cc ∧ (cycle P s).cc.oneHot = true) ∧
      ((s.sr.v = false ∨ s.sr.cs.getLsbD 3 = false) → (cycle P s).cc = s.cc)

/-- The instruction port: with `icache_r = 1` the word at word address `a >> 1`, high plane times 256 plus low plane, with
`icache_r = 0` the word 0xFEED; FETCH calls it once in every cycle, with `a = pc`, on the memory of that cycle; it writes
nothing, so the memory after a cycle is what the MEM stage left, whatever the port answers and whatever `pc` is; the
reference predicate is `c mod 13 != 0` (20_memory.md R58). -/
def Obligations.InstructionPort : Prop :=
  (∀ (P : Params) (c : Nat) (m : Memory) (a : Word),
    (P.icacheReady c = true → (icacheAccess P c m a).2 = true ∧
      ∃ w : WordAddr, w.toNat = a.toNat / 2 ∧
        (icacheAccess P c m a).1.toNat = 256 * (m.getHigh w).toNat + (m.getLow w).toNat) ∧
      (P.icacheReady c = false → icacheAccess P c m a = (0xFEED#16, false))) ∧
    (∀ (P : Params) (s : State), (signals P s).icacheR = P.icacheReady s.cycleCount ∧
      ∃ m : Memory, (m = s.memory ∨ m = (cycle P s).memory) ∧ cycleFetch P s = icacheAccess P s.cycleCount m s.pc) ∧
    (∀ (P : Params) (s : State), (cycle P s).memory = (cycleMem P s).memory ∧
      (∀ pc : Word, (cycle P { s with pc := pc }).memory = (cycle P s).memory) ∧
      ∀ ready : Nat → Bool, (cycle { P with icacheReady := ready } s).memory = (cycle P s).memory) ∧
    ∀ c : Nat, referenceParams.icacheReady c = true ↔ c % 13 ≠ 0

/-- The store path: memory changes in a cycle exactly at the bytes of a write that is enabled, valid and answered: both
bytes of the containing word for a word, the addressed byte for a byte (44_stage_mem.md R161 to R163, 20_memory.md R59,
decisions of the spec), and the instruction port reads what is then there (R66, R68, a decision of the spec). DCACHE_EN,
DCACHE_RW and DATA_SIZE are MEM_CS positions 4, 5 and 6. -/
def Obligations.MemStageWritesEnabledBytes : Prop :=
  ∀ (P : Params) (s : State),
    (∀ a : Word, (cycle P s).memory.byte a =
      if s.mem.v = true ∧ s.mem.cs.getLsbD 4 = true ∧ s.mem.cs.getLsbD 5 = true ∧ P.dcacheReady s.cycleCount = true then
        if s.mem.cs.getLsbD 6 = true then
          if a = s.mem.address &&& 0xFFFE#16 then s.mem.aluResult.extractLsb' 0 8
          else if a = s.mem.address ||| 0x0001#16 then s.mem.aluResult.extractLsb' 8 8
          else s.memory.byte a
        else if a = s.mem.address then s.mem.aluResult.extractLsb' 0 8 else s.memory.byte a
      else s.memory.byte a) ∧
    cycleFetch P s = icacheAccess P s.cycleCount (cycle P s).memory s.pc

/-- The load path: a valid access that the port answers puts the containing word, or the addressed byte sign-extended, into
the SR latch; MEM stalls exactly when a valid access meets a port that is not ready; the reference predicate of the data port
is `c mod 9 != 0` (44_stage_mem.md R164, R165, 20_memory.md R59; the byte load and the gating by the valid bit are decisions of
the spec, log 24). Nothing is said of the value of a cycle without an access: it is free (log 6). -/
def Obligations.MemStageReadsSelectedData : Prop :=
  (∀ (P : Params) (s : State), s.mem.v = true → s.mem.cs.getLsbD 4 = true → P.dcacheReady s.cycleCount = true →
    (cycle P s).sr.v = true ∧
      (s.mem.cs.getLsbD 6 = true → (cycle P s).sr.data.toNat =
        256 * (s.memory.byte (s.mem.address ||| 0x0001#16)).toNat +
          (s.memory.byte (s.mem.address &&& 0xFFFE#16)).toNat) ∧
      (s.mem.cs.getLsbD 6 = false → (cycle P s).sr.data.toInt = (s.memory.byte s.mem.address).toInt)) ∧
    (∀ (P : Params) (s : State), (signals P s).mem.memStall = true ↔
      s.mem.v = true ∧ s.mem.cs.getLsbD 4 = true ∧ P.dcacheReady s.cycleCount = false) ∧
    ∀ c : Nat, referenceParams.dcacheReady c = true ↔ c % 9 ≠ 0

/-- `mem_pc_mux`: 2 for a valid TRAP_OP; 1 for a valid UNCOND_OP, or BR_OP with any requested flag of the snapshot set; 0
otherwise; never 3 (44_stage_mem.md R167, R168, decisions of the spec). -/
def Obligations.MemStageResolvesTransfers : Prop :=
  ∀ l : MemLatch,
    (memPcMux l = 2#2 ↔ l.v = true ∧ l.cs.getLsbD 2 = true) ∧
      (memPcMux l = 1#2 ↔ l.v = true ∧ l.cs.getLsbD 2 = false ∧
        (l.cs.getLsbD 1 = true ∨ (l.cs.getLsbD 0 = true ∧
          ((l.ir.getLsbD 11 = true ∧ l.cc.n = true) ∨ (l.ir.getLsbD 10 = true ∧ l.cc.z = true) ∨
            (l.ir.getLsbD 9 = true ∧ l.cc.p = true))))) ∧
      memPcMux l ≠ 3#2

/-- The AGEX address: NPC or SR1 plus the selected signed offset, doubled under LSHF1, modulo 2^16, or twice the trap vector
(45_stage_agex.md R181 to R184, decisions of the spec but for R183; the first worked example of R193 says otherwise of
the unused address of an ADD, log 32). AGEX_CS positions 0 to 4. -/
def Obligations.AgexAddressSum : Prop :=
  ∀ l : AgexLatch,
    let base : Word := if l.cs.getLsbD 0 then l.sr1 else l.npc
    let off : Int :=
      if l.cs.getLsbD 1 then (if l.cs.getLsbD 2 then (l.ir.extractLsb' 0 11).toInt else (l.ir.extractLsb' 0 9).toInt)
      else (if l.cs.getLsbD 2 then (l.ir.extractLsb' 0 6).toInt else 0)
    (l.cs.getLsbD 4 = true → ((agexAddress l).toNat : Int) =
      ((base.toNat : Int) + (if l.cs.getLsbD 3 then 2 * off else off)) % 65536) ∧
      (l.cs.getLsbD 4 = false → (agexAddress l).toNat = 2 * (l.ir.toNat % 256))

/-- The AGEX result: the ALU on SR1 and the register or immediate operand, or the shifter with its three kinds read as
arithmetic on integers (45_stage_agex.md R185 to R188, decisions of the spec). AGEX_CS positions 5 to 8. -/
def Obligations.AgexResultValue : Prop :=
  ∀ l : AgexLatch,
    let b : Word := if l.cs.getLsbD 5 then (l.ir.extractLsb' 0 5).signExtend 16 else l.sr2
    let k : Nat := (l.ir.extractLsb' 0 4).toNat
    (l.cs.getLsbD 8 = true →
      (l.cs.getLsbD 6 = false → l.cs.getLsbD 7 = false → (agexResult l).toNat = (l.sr1.toNat + b.toNat) % 65536) ∧
      (l.cs.getLsbD 6 = false → l.cs.getLsbD 7 = true → ∀ i < 16,
        (agexResult l).getLsbD i = (l.sr1.getLsbD i && b.getLsbD i)) ∧
      (l.cs.getLsbD 6 = true → l.cs.getLsbD 7 = false → ∀ i < 16,
        (agexResult l).getLsbD i = (l.sr1.getLsbD i ^^ b.getLsbD i)) ∧
      (l.cs.getLsbD 6 = true → l.cs.getLsbD 7 = true → agexResult l = b)) ∧
    (l.cs.getLsbD 8 = false →
      (l.ir.getLsbD 4 = false → (agexResult l).toNat = l.sr1.toNat * 2 ^ k % 65536) ∧
      (l.ir.getLsbD 4 = true → l.ir.getLsbD 5 = false → (agexResult l).toNat = l.sr1.toNat / 2 ^ k) ∧
      (l.ir.getLsbD 4 = true → l.ir.getLsbD 5 = true → (agexResult l).toInt = l.sr1.toInt / (2 ^ k : Int)))

/-- The AGEX latch: DE's decoded instruction with start-of-cycle register and flag values when `mem_stall = 0`, a bubble of it
when `dep_stall = 1`, which also stays in DE; its own content when `mem_stall = 1`, the instruction staying in DE as well
(46_stage_decode_fetch.md R207). SR1 is read by IR[8:6], SR2 by IR[11:9] when IR[13] is 1 and by IR[2:0] when it is 0 (R203),
the destination is 7 when DRMUX, position 2 of the control word, is 1 and IR[11:9] when it is 0 (R205), decisions of the spec
(log 21, log 23). -/
def Obligations.AgexLatchAdvancesOrHolds : Prop :=
  ∀ (P : Params) (s : State),
    let g := signals P s
    let ir := s.de.ir
    let cw := P.ucode (controlRow ir)
    (g.mem.memStall = false → (cycle P s).agex =
      { v := s.de.v && !g.de.depStall, ir := ir, npc := s.de.npc, sr1 := s.reg (ir.extractLsb' 6 3),
        sr2 := s.reg (if ir.getLsbD 13 then ir.extractLsb' 9 3 else ir.extractLsb' 0 3), cc := s.cc,
        drid := if cw.getLsbD 2 then 7#3 else ir.extractLsb' 9 3, cs := cw.extractLsb' 3 20 }) ∧
      (g.mem.memStall = true → (cycle P s).agex = s.agex ∧ (cycle P s).de = s.de) ∧
      (g.de.depStall = true → g.mem.memStall = false → (cycle P s).agex.v = false ∧ (cycle P s).de = s.de)

/-- `dep_stall`: a valid DE occupant needs a register, or is a conditional branch and needs the flags, that a valid
instruction in AGEX, MEM or SR will write; a bubble in DE never stalls (47_hazard_stall.md R233). -/
def Obligations.DependencyStallCondition : Prop :=
  ∀ (P : Params) (s : State),
    let cw := deControlWord P s.de
    let writes : RegId → Prop := fun r =>
      (s.agex.v = true ∧ flagAt agexFirst s.agex.cs .ldReg = true ∧ s.agex.drid = r) ∨
        (s.mem.v = true ∧ flagAt memFirst s.mem.cs .ldReg = true ∧ s.mem.drid = r) ∨
        (s.sr.v = true ∧ flagAt srFirst s.sr.cs .ldReg = true ∧ s.sr.drid = r)
    (signals P s).de.depStall = true ↔
      s.de.v = true ∧
        ((flagAt 0 cw .sr1Needed = true ∧ writes (sr1Id s.de.ir)) ∨
          (flagAt 0 cw .sr2Needed = true ∧ writes (sr2Id s.de.ir)) ∨
          (flagAt 0 cw .brOp = true ∧
            ((s.agex.v = true ∧ flagAt agexFirst s.agex.cs .ldCc = true) ∨
              (s.mem.v = true ∧ flagAt memFirst s.mem.cs .ldCc = true) ∨
              (s.sr.v = true ∧ flagAt srFirst s.sr.cs .ldCc = true))))

/-- `ld_pc`: 1 unless the instruction port is not ready or a stall is raised, a MEM branch stall being waived when the transfer
is taken (`mem_pc_mux != 0`) (47_hazard_stall.md R236). -/
def Obligations.PcLoadCondition : Prop :=
  ∀ (P : Params) (s : State),
    let g := signals P s
    g.ldPc = true ↔
      g.icacheR = true ∧ g.de.depStall = false ∧ g.mem.memStall = false ∧ g.agex.vAgexBrStall = false ∧
        g.de.vDeBrStall = false ∧ (g.mem.vMemBrStall = false ∨ g.mem.memPcMux ≠ 0#2)

/-- `pc'` is `new_pc` when no stall is detected and `pc` otherwise; `new_pc` is `(pc + 2) mod 2^16`, the branch target or the
trap vector word, as `mem_pc_mux` says (46_stage_decode_fetch.md R211, R212, R213; the treatment of the value 3 is a decision
of the spec, log 9). -/
def Obligations.PcUpdate : Prop :=
  ∀ (P : Params) (s : State),
    let g := signals P s
    (g.ldPc = false → (cycle P s).pc = s.pc) ∧
      (g.ldPc = true → g.mem.memPcMux = 0#2 → (cycle P s).pc.toNat = (s.pc.toNat + 2) % 65536) ∧
      (g.ldPc = true → g.mem.memPcMux = 1#2 → (cycle P s).pc = s.mem.address) ∧
      (g.ldPc = true → g.mem.memPcMux = 2#2 → (cycle P s).pc = g.mem.memData)

/-- What each stall does to `pc` and to every latch, row by row, the first row whose condition holds (47_hazard_stall.md R237,
derived by the spec); a latch that advances into MEM takes AGEX's fields and results (45_stage_agex.md R189, R191). -/
def Obligations.StallTable : Prop :=
  ∀ (P : Params) (s : State),
    let g := signals P s
    let t := cycle P s
    if g.mem.memStall = true then
      t.pc = s.pc ∧ t.de = s.de ∧ t.agex = s.agex ∧ t.mem = s.mem ∧ t.sr.v = false
    else
      (t.mem = ⟨s.agex.v, s.agex.ir, s.agex.npc, agexResult s.agex, agexAddress s.agex, s.agex.cc, s.agex.drid,
          s.agex.cs.extractLsb' 9 11⟩ ∧
        t.sr.v = s.mem.v ∧ t.sr.ir = s.mem.ir ∧ t.sr.npc = s.mem.npc ∧ t.sr.aluResult = s.mem.aluResult ∧
        t.sr.address = s.mem.address ∧ t.sr.drid = s.mem.drid ∧ t.sr.cs = s.mem.cs.extractLsb' 7 4) ∧
      if g.de.depStall = true then t.pc = s.pc ∧ t.de = s.de ∧ t.agex.v = false ∧ t.agex.ir = s.de.ir
      else t.agex.v = s.de.v ∧ t.agex.ir = s.de.ir ∧
        if g.de.vDeBrStall = true ∨ g.agex.vAgexBrStall = true then t.pc = s.pc ∧ t.de.v = false
        else if g.mem.vMemBrStall = true ∧ g.mem.memPcMux = 0#2 then t.pc = s.pc ∧ t.de.v = false
        else if g.mem.vMemBrStall = true ∧ g.icacheR = true then
          t.pc = (if g.mem.memPcMux = 1#2 then g.mem.targetPc else g.mem.trapPc) ∧ t.de.v = false
        else if g.mem.vMemBrStall = true then t.pc = s.pc ∧ t.de.v = false
        else if g.icacheR = false then t.pc = s.pc ∧ t.de.v = false ∧ t.de.ir = 0xFEED#16
        else t.pc = newPc g.mem.memPcMux (s.pc + 2#16) g.mem.targetPc g.mem.trapPc ∧
          t.de = { v := true, ir := (cycleFetch P s).1, npc := s.pc + 2#16 }

/-! ### Hazards -/

/-- A taken transfer resolved in MEM with the instruction port ready loads `pc` with its target or with the word read from the
vector, and nothing younger is in the pipeline after the edge (47_hazard_stall.md R237, R239, derived by the spec). -/
def Obligations.TakenTransferRedirects : Prop :=
  ∀ (P : Params) (s : State), NoYoungerBehindTransfer s → (signals P s).mem.vMemBrStall = true →
    (signals P s).mem.memPcMux ≠ 0#2 → (signals P s).mem.memStall = false → P.icacheReady s.cycleCount = true →
    (cycle P s).pc = (if (signals P s).mem.memPcMux = 2#2 then (signals P s).mem.memData else s.mem.address) ∧
      inFlight (cycle P s) = [(s.mem.ir, s.mem.npc)]

/-- The lost redirect: a taken transfer resolved in MEM while the instruction port is not ready moves on to SR without loading
`pc`, and in the next cycle the redirect is gone (47_hazard_stall.md R240, a decision of the spec to follow the source's
condition literally; log 12). -/
def Obligations.LostRedirectFallsThrough : Prop :=
  ∀ (P : Params) (s : State), NoYoungerBehindTransfer s → redirectLost P s = true →
    (cycle P s).pc = s.pc ∧ inFlight (cycle P s) = [(s.mem.ir, s.mem.npc)] ∧ (cycle P s).sr.v = true ∧
      (signals P (cycle P s)).mem.memPcMux = 0#2 ∧ (signals P (cycle P s)).mem.vMemBrStall = false

/-- A BR_STALL instruction that leaves DE into an empty pipeline holds `pc` and sends bubbles for two cycles, and in the third,
when it is resolved in MEM, still no younger instruction enters (47_hazard_stall.md R239, derived by the spec). -/
def Obligations.TransferBubblesFetch : Prop :=
  ∀ (P : Params) (s : State), s.de.v = true → (P.ucode (controlRow s.de.ir)).getLsbD 15 = true →
    s.agex.v = false → s.mem.v = false → (signals P s).de.depStall = false → P.dcacheReady (s.cycleCount + 2) = true →
    (cycles P 2 s).pc = s.pc ∧ inFlight (cycles P 1 s) = [(s.de.ir, s.de.npc)] ∧
      inFlight (cycles P 2 s) = [(s.de.ir, s.de.npc)] ∧ inFlight (cycles P 3 s) = [(s.de.ir, s.de.npc)] ∧
      (cycles P 1 s).agex.v = true ∧ (cycles P 2 s).mem.v = true ∧ (cycles P 3 s).sr.v = true

/-- No forwarding is needed: when an instruction leaves DE, each operand it needs is the committed one, equal to the register
after the edge, with no older writer of it left in MEM or SR; and a conditional branch carries the committed flags
(47_hazard_stall.md R230, R233; 46_stage_decode_fetch.md R204, R206). -/
def Obligations.NeededOperandsAreCommitted : Prop :=
  ∀ (P : Params) (s : State), (signals P s).mem.memStall = false → (cycle P s).agex.v = true →
    let t := cycle P s
    let cw := P.ucode (controlRow s.de.ir)
    let settled : RegId → Prop := fun r =>
      ¬(t.mem.v = true ∧ t.mem.cs.getLsbD 9 = true ∧ t.mem.drid = r) ∧
        ¬(t.sr.v = true ∧ t.sr.cs.getLsbD 2 = true ∧ t.sr.drid = r)
    (cw.getLsbD 0 = true → t.agex.sr1 = t.reg (sr1Id s.de.ir) ∧ settled (sr1Id s.de.ir)) ∧
      (cw.getLsbD 1 = true → t.agex.sr2 = t.reg (sr2Id s.de.ir) ∧ settled (sr2Id s.de.ir)) ∧
      (cw.getLsbD 12 = true → t.agex.cc = t.cc ∧ ¬(t.mem.v = true ∧ t.mem.cs.getLsbD 10 = true) ∧
        ¬(t.sr.v = true ∧ t.sr.cs.getLsbD 3 = true))

/-- The source's example in general: an instruction in DE that needs, through SR1, through SR2 or as a branch on the flags, what
an adjacent older instruction in AGEX will write stalls while that one is in AGEX, MEM and SR, three cycles, and leaves DE in
the fourth with the value written, the producer's result, address, NPC or loaded data, and its flags (47_hazard_stall.md R233,
R234, R246, R247, derived by the spec). A producer that accesses memory is answered in the cycle it is in MEM; a producer that
writes back DATA without an access is not asked for a value (free, log 6). -/
def Obligations.AdjacentDependencyStallsThreeCycles : Prop :=
  ∀ (P : Params) (s : State), s.de.v = true → s.agex.v = true → s.mem.v = false → s.sr.v = false →
    let cw := P.ucode (controlRow s.de.ir)
    let a := s.agex
    ((flagAt 0 cw .sr1Needed = true ∧ a.flag .ldReg = true ∧ a.drid = sr1Id s.de.ir) ∨
      (flagAt 0 cw .sr2Needed = true ∧ a.flag .ldReg = true ∧ a.drid = sr2Id s.de.ir) ∨
      (flagAt 0 cw .brOp = true ∧ a.flag .ldCc = true)) →
    (a.flag .dcacheEn = true → P.dcacheReady (s.cycleCount + 1) = true) →
    let t := cycles P 4 s
    (signals P s).de.depStall = true ∧ (signals P (cycles P 1 s)).de.depStall = true ∧
      (signals P (cycles P 2 s)).de.depStall = true ∧ (signals P (cycles P 3 s)).de.depStall = false ∧
      t.agex.v = true ∧ t.agex.ir = s.de.ir ∧
      ∃ v : Word,
        (a.pair .drValueMux = 0#2 → v = agexAddress a) ∧
        (a.pair .drValueMux = 1#2 → a.flag .dcacheEn = true → a.flag .dataSize = true → v.toNat =
          256 * (s.memory.byte (agexAddress a ||| 0x0001#16)).toNat +
            (s.memory.byte (agexAddress a &&& 0xFFFE#16)).toNat) ∧
        (a.pair .drValueMux = 1#2 → a.flag .dcacheEn = true → a.flag .dataSize = false →
          v.toInt = (s.memory.byte (agexAddress a)).toInt) ∧
        (a.pair .drValueMux = 2#2 → v = a.npc) ∧
        (a.pair .drValueMux = 3#2 → v = agexResult a) ∧
        (a.flag .ldReg = true → a.drid = sr1Id s.de.ir → t.agex.sr1 = v) ∧
        (a.flag .ldReg = true → a.drid = sr2Id s.de.ir → t.agex.sr2 = v) ∧
        (a.flag .ldCc = true → FlagsOf v t.agex.cc)

/-- Bubbles change nothing: with every latch a bubble, whatever stale fields they hold, a cycle keeps registers, flags and
memory, raises no stall but the instruction port's, and only fetches (10_state.md R37, 42_pipeline_cycle.md R147, a decision of
the spec). -/
def Obligations.BubblesChangeNothing : Prop :=
  ∀ (P : Params) (s : State), Drained s →
    (cycle P s).regs = s.regs ∧ (cycle P s).cc = s.cc ∧ (cycle P s).memory = s.memory ∧
      (signals P s).mem.memStall = false ∧ (signals P s).de.depStall = false ∧
      (signals P s).ldPc = P.icacheReady s.cycleCount ∧
      (P.icacheReady s.cycleCount = true → (cycle P s).pc = s.pc + 2#16 ∧
        inFlight (cycle P s) = [(fetchWord s, s.pc + 2#16)]) ∧
      (P.icacheReady s.cycleCount = false → (cycle P s).pc = s.pc ∧ Drained (cycle P s))

/-! ### The control store -/

/-- The row of an instruction word: `2 * IR[15:11] + IR[5] = 4 * IR[15:12] + 2 * IR[11] + IR[5]`, from whatever the DE latch
holds, with the spec's two examples (41_control_store.md R121). -/
def Obligations.ControlRowAddress : Prop :=
  (∀ ir : Word,
    (controlRow ir).toNat = 2 * (ir.toNat / 2 ^ 11) + ir.toNat / 2 ^ 5 % 2 ∧
      (controlRow ir).toNat = 4 * (ir.toNat / 2 ^ 12) + 2 * (ir.toNat / 2 ^ 11 % 2) + ir.toNat / 2 ^ 5 % 2) ∧
    (∀ (P : Params) (l : DeLatch), deControlWord P l = P.ucode (controlRow l.ir)) ∧
    controlRow 0x1845#16 = 6#6 ∧ controlRow 0x1261#16 = 5#6

/-- `UCODE_REF` satisfies every condition W1 to W8 (41_control_store.md R129, R131, decisions of the spec;
W8 in the model's reading of operand bits, log 33). -/
def Obligations.ReferenceImageWellFormed : Prop := wfUcode ucodeRef = true

/-- Fields do not overlap: in a control word with one bit set, exactly the field that owns that position is non-zero
(41_control_store.md R122, R123). -/
def Obligations.ControlFieldIsolation : Prop :=
  ∀ (f g : ControlField) (second : Bool), (second = true → f.isPair = true) →
    (fieldValue (BitVec.twoPow 23 (f.position + second.toNat)) g ≠ 0 ↔ g = f)

/-- A field reads the same from the full word and from every slice that carries it (41_control_store.md R123, R124; the
positions are a decision of the spec). -/
def Obligations.SlicesCarryTheSameFields : Prop :=
  ∀ (cw : ControlWord) (f : ControlField),
    (∀ (h0 : HasFlag 0 23 f),
      (∀ h : HasFlag agexFirst 20 f, flagAt agexFirst (agexSlice cw) f h = flagAt 0 cw f h0) ∧
      (∀ h : HasFlag memFirst 11 f, flagAt memFirst (memSlice (agexSlice cw)) f h = flagAt 0 cw f h0) ∧
      (∀ h : HasFlag srFirst 4 f, flagAt srFirst (srSlice (memSlice (agexSlice cw))) f h = flagAt 0 cw f h0)) ∧
    (∀ (h0 : HasPair 0 23 f),
      (∀ h : HasPair agexFirst 20 f, pairAt agexFirst (agexSlice cw) f h = pairAt 0 cw f h0) ∧
      (∀ h : HasPair memFirst 11 f, pairAt memFirst (memSlice (agexSlice cw)) f h = pairAt 0 cw f h0) ∧
      (∀ h : HasPair srFirst 4 f, pairAt srFirst (srSlice (memSlice (agexSlice cw))) f h = pairAt 0 cw f h0))

/-- Under `UCODE_REF` an instruction stalls fetching exactly when it is a control transfer, and the opcodes with no function
have the all-zero word (47_hazard_stall.md R235, 41_control_store.md R131, R132, decisions of the spec). -/
def Obligations.ReferenceImageStallsExactlyTransfers : Prop :=
  ∀ w : Word,
    (flagAt 0 (ucodeRef (controlRow w)) .brStall = isTransfer (decodeWord w)) ∧
      (ucodeRef (controlRow w) = 0#23 ↔
        decodeWord w = .rti ∨ decodeWord w = .reserved1010 ∨ decodeWord w = .reserved1011)

/-- W3 and W4 do what they are for: in a row that satisfies them, an operand whose NEEDED bit is 0 has no influence on an
address or a result the row uses (41_control_store.md R129, a decision of the spec). -/
def Obligations.UnneededOperandsDoNotMatter : Prop :=
  ∀ (cw : ControlWord) (l : AgexLatch) (v : Word), l.cs = agexSlice cw →
    (wfSr1 cw = true → flagAt 0 cw .sr1Needed = false →
      (addrUsed cw = true → agexAddress { l with sr1 := v } = agexAddress l) ∧
        (resultUsed cw = true → agexResult { l with sr1 := v } = agexResult l)) ∧
      (wfSr2 cw = true → flagAt 0 cw .sr2Needed = false →
        agexAddress { l with sr2 := v } = agexAddress l ∧
          (resultUsed cw = true → agexResult { l with sr2 := v } = agexResult l))

/-! ### Bit primitives and memory -/

/-- A range write puts the written bits at `lo` to `hi` and leaves every other bit; reading the range gives what was written;
the value is the spec's formula, with its example (40_bit_primitives.md R104). -/
def Obligations.RangeWriteThrough : Prop :=
  (∀ (w : Nat) (x : BitVec w) (hi lo : Nat) (y : BitVec (hi - lo + 1)) (h : RangeOk w hi lo),
    range (setRange x hi lo y h) hi lo h = y ∧
      (∀ (i : Nat) (hi' : IndexOk w i), i < lo ∨ hi < i → bit (setRange x hi lo y h) i hi' = bit x i hi') ∧
      setRange x hi lo y h =
        (x &&& ~~~(BitVec.ofNat w ((2 ^ (hi - lo + 1) - 1) <<< lo))) ||| BitVec.ofNat w (y.toNat <<< lo)) ∧
    setRange 0xFFFF#16 7 4 (0#4) = 0xFF0F#16

/-- The extensions: bits up to `b` kept, those above copies of bit `b` or 0; read as two's-complement numbers the short and the
sign-extended value are the same integer (40_bit_primitives.md R105, R106, R112). -/
def Obligations.ExtensionLaws : Prop :=
  ∀ (w : Nat) (x : BitVec w) (b : Nat) (h : IndexOk w b),
    (∀ (k : Nat) (hk : IndexOk w k), bit (signExtendFrom x b h) k hk = if k ≤ b then bit x k hk else bit x b h) ∧
      (∀ (k : Nat) (hk : IndexOk w k), bit (zeroExtendFrom x b h) k hk = (decide (k ≤ b) && bit x k hk)) ∧
      (zeroExtendFrom x b h).toNat = x.toNat % 2 ^ (b + 1) ∧
      (signExtendFrom x b h).toInt = (range x b 0 ⟨Nat.zero_le b, h⟩).toInt ∧
      ∀ hw : IndexOk w (w - 1), signExtendFrom x (w - 1) hw = x ∧ zeroExtendFrom x (w - 1) hw = x

/-- The canonical form is canonical: two memories in it that read the same at every address are the same memory (log 5). -/
def Obligations.CanonicalMemoryIsDeterminedByItsBytes : Prop :=
  ∀ m m' : Memory, m.wf = true → m'.wf = true → (∀ a : Word, m.byte a = m'.byte a) → m = m'

/-- What a program file delivers: word `k` at word address `base + k`, every other word as it was (30_encoding.md R96,
70_reset_and_hazards.md R322). A file that does not fit never reaches the hardware, and nothing is said of it (log 34). -/
def Obligations.LoaderDeliversTheFile : Prop :=
  ∀ (m : Memory) (base : WordAddr) (ws : List Word), base.toNat + ws.length ≤ 32768 →
    (∀ (k : Nat) (h : k < ws.length), (m.loadFile base ws).word (BitVec.ofNat 15 (base.toNat + k)) = ws[k]) ∧
      ∀ a : WordAddr, a.toNat < base.toNat ∨ base.toNat + ws.length ≤ a.toNat → (m.loadFile base ws).word a = m.word a

/-! ### The instructions -/

/-- ADD, AND, XOR, register form, in every state and for every register: the value, the flags, `pc`, and the frame
(48_isa_operate.md R250, R251, R253, R255, derived by the spec under `UCODE_REF`). -/
def Obligations.RegisterOperateResults : Prop :=
  ∀ (s : State) (dr sr1 sr2 : RegId),
    (∃ t, exec (.addReg dr sr1 sr2) s = .next t ∧
      (t.reg dr).toNat = ((s.reg sr1).toNat + (s.reg sr2).toNat) % 65536 ∧ FlagsOf (t.reg dr) t.cc ∧
      t.pc = s.pc + 2#16 ∧ KeepsRegsBut dr s t ∧ KeepsMemory s t ∧ KeepsPipeline s t) ∧
    (∃ t, exec (.andReg dr sr1 sr2) s = .next t ∧
      (∀ i < 16, (t.reg dr).getLsbD i = ((s.reg sr1).getLsbD i && (s.reg sr2).getLsbD i)) ∧ FlagsOf (t.reg dr) t.cc ∧
      t.pc = s.pc + 2#16 ∧ KeepsRegsBut dr s t ∧ KeepsMemory s t ∧ KeepsPipeline s t) ∧
    (∃ t, exec (.xorReg dr sr1 sr2) s = .next t ∧
      (∀ i < 16, (t.reg dr).getLsbD i = ((s.reg sr1).getLsbD i ^^ (s.reg sr2).getLsbD i)) ∧ FlagsOf (t.reg dr) t.cc ∧
      t.pc = s.pc + 2#16 ∧ KeepsRegsBut dr s t ∧ KeepsMemory s t ∧ KeepsPipeline s t)

/-- ADD, AND, XOR, immediate form, and NOT: the immediate is a signed number from -16 to 15, its sign bit fills the bits above
(48_isa_operate.md R252, R254, R256, R257, derived by the spec under `UCODE_REF`). -/
def Obligations.ImmediateOperateResults : Prop :=
  ∀ (s : State) (dr sr1 : RegId) (imm5 : BitVec 5),
    (∃ t, exec (.addImm dr sr1 imm5) s = .next t ∧
      ((t.reg dr).toNat : Int) = (((s.reg sr1).toNat : Int) + imm5.toInt) % 65536 ∧ FlagsOf (t.reg dr) t.cc ∧
      t.pc = s.pc + 2#16 ∧ KeepsRegsBut dr s t ∧ KeepsMemory s t ∧ KeepsPipeline s t) ∧
    (∃ t, exec (.andImm dr sr1 imm5) s = .next t ∧
      (∀ i < 16, (t.reg dr).getLsbD i = ((s.reg sr1).getLsbD i && imm5.getLsbD (min i 4))) ∧ FlagsOf (t.reg dr) t.cc ∧
      t.pc = s.pc + 2#16 ∧ KeepsRegsBut dr s t ∧ KeepsMemory s t ∧ KeepsPipeline s t) ∧
    (∃ t, exec (.xorImm dr sr1 imm5) s = .next t ∧
      (∀ i < 16, (t.reg dr).getLsbD i = ((s.reg sr1).getLsbD i ^^ imm5.getLsbD (min i 4))) ∧ FlagsOf (t.reg dr) t.cc ∧
      t.pc = s.pc + 2#16 ∧ KeepsRegsBut dr s t ∧ KeepsMemory s t ∧ KeepsPipeline s t) ∧
    (∃ t, exec (.notReg dr sr1) s = .next t ∧
      (t.reg dr).toNat = 65535 - (s.reg sr1).toNat ∧ FlagsOf (t.reg dr) t.cc ∧
      t.pc = s.pc + 2#16 ∧ KeepsRegsBut dr s t ∧ KeepsMemory s t ∧ KeepsPipeline s t)

/-- The shifts as arithmetic on integers, for every amount 0 to 15 (48_isa_operate.md R258, R259, R260, derived by the spec
under `UCODE_REF`). -/
def Obligations.ShiftResults : Prop :=
  ∀ (s : State) (dr sr : RegId) (k : BitVec 4),
    (∃ t, exec (.lshf dr sr k) s = .next t ∧ (t.reg dr).toNat = (s.reg sr).toNat * 2 ^ k.toNat % 65536 ∧
      FlagsOf (t.reg dr) t.cc ∧ t.pc = s.pc + 2#16 ∧ KeepsRegsBut dr s t ∧ KeepsMemory s t ∧ KeepsPipeline s t) ∧
    (∃ t, exec (.rshfl dr sr k) s = .next t ∧ (t.reg dr).toNat = (s.reg sr).toNat / 2 ^ k.toNat ∧
      FlagsOf (t.reg dr) t.cc ∧ t.pc = s.pc + 2#16 ∧ KeepsRegsBut dr s t ∧ KeepsMemory s t ∧ KeepsPipeline s t) ∧
    (∃ t, exec (.rshfa dr sr k) s = .next t ∧ (t.reg dr).toInt = (s.reg sr).toInt / (2 ^ k.toNat : Int) ∧
      FlagsOf (t.reg dr) t.cc ∧ t.pc = s.pc + 2#16 ∧ KeepsRegsBut dr s t ∧ KeepsMemory s t ∧ KeepsPipeline s t)

/-- LEA: NPC plus twice the signed word offset, modulo 2^16; the flags are not written (48_isa_operate.md R261, derived by the
spec under `UCODE_REF`). -/
def Obligations.LeaResult : Prop :=
  ∀ (s : State) (dr : RegId) (off : BitVec 9),
    ∃ t, exec (.lea dr off) s = .next t ∧
      ((t.reg dr).toNat : Int) = ((s.pc.toNat : Int) + 2 + 2 * off.toInt) % 65536 ∧ t.cc = s.cc ∧ t.pc = s.pc + 2#16 ∧
      KeepsRegsBut dr s t ∧ KeepsMemory s t ∧ KeepsPipeline s t

/-- LDB and LDW in every state, at every address: the addressed byte as a signed number, or the word that contains the
addressed byte, bit 0 ignored; flags from the loaded value (49_isa_memory_control.md R271, R272, derived by the spec under
`UCODE_REF`). -/
def Obligations.LoadResults : Prop :=
  ∀ (s : State) (dr baseR : RegId) (off : BitVec 6),
    (∃ (a : Word) (t : State), (a.toNat : Int) = (((s.reg baseR).toNat : Int) + off.toInt) % 65536 ∧
      exec (.ldb dr baseR off) s = .next t ∧ (t.reg dr).toInt = (s.memory.byte a).toInt ∧ FlagsOf (t.reg dr) t.cc ∧
      t.pc = s.pc + 2#16 ∧ KeepsRegsBut dr s t ∧ KeepsMemory s t ∧ KeepsPipeline s t) ∧
    (∃ (a : Word) (t : State), (a.toNat : Int) = (((s.reg baseR).toNat : Int) + 2 * off.toInt) % 65536 ∧
      exec (.ldw dr baseR off) s = .next t ∧
      (t.reg dr).toNat =
        256 * (s.memory.byte (a ||| 0x0001#16)).toNat + (s.memory.byte (a &&& 0xFFFE#16)).toNat ∧
      FlagsOf (t.reg dr) t.cc ∧ t.pc = s.pc + 2#16 ∧ KeepsRegsBut dr s t ∧ KeepsMemory s t ∧ KeepsPipeline s t)

/-- STB and STW in every state: the bytes stored, at the address the meaning computes (`byteAddress`, `wordAddress` of the base
register), every other byte of memory as before, no register and no flag written (49_isa_memory_control.md R273, R274,
derived by the spec under `UCODE_REF`). -/
def Obligations.StoreResults : Prop :=
  ∀ (s : State) (sr baseR : RegId) (off : BitVec 6),
    (∃ t, exec (.stb sr baseR off) s = .next t ∧
      ((byteAddress (s.reg baseR) off).toNat : Int) = (((s.reg baseR).toNat : Int) + off.toInt) % 65536 ∧
      (t.memory.byte (byteAddress (s.reg baseR) off)).toNat = (s.reg sr).toNat % 256 ∧
      (∀ c : Word, c ≠ byteAddress (s.reg baseR) off → t.memory.byte c = s.memory.byte c) ∧
      t.cc = s.cc ∧ t.pc = s.pc + 2#16 ∧ KeepsRegs s t ∧ KeepsPipeline s t) ∧
    (∃ t, exec (.stw sr baseR off) s = .next t ∧
      ((wordAddress (s.reg baseR) off).toNat : Int) = (((s.reg baseR).toNat : Int) + 2 * off.toInt) % 65536 ∧
      (t.memory.byte (wordAddress (s.reg baseR) off &&& 0xFFFE#16)).toNat = (s.reg sr).toNat % 256 ∧
      (t.memory.byte (wordAddress (s.reg baseR) off ||| 0x0001#16)).toNat = (s.reg sr).toNat / 256 ∧
      (∀ c : Word, c ≠ wordAddress (s.reg baseR) off &&& 0xFFFE#16 → c ≠ wordAddress (s.reg baseR) off ||| 0x0001#16 →
        t.memory.byte c = s.memory.byte c) ∧
      t.cc = s.cc ∧ t.pc = s.pc + 2#16 ∧ KeepsRegs s t ∧ KeepsPipeline s t)

/-- BR: taken exactly when a requested flag is set, to NPC plus twice the signed word offset, else to NPC; NOP: to NPC; neither
writes anything else (49_isa_memory_control.md R275, R276, derived by the spec under `UCODE_REF`). -/
def Obligations.BranchResults : Prop :=
  ∀ (s : State) (n z p : Bool) (off : BitVec 9),
    (∃ t, exec (.br n z p off) s = .next t ∧
      ((n = true ∧ s.cc.n = true) ∨ (z = true ∧ s.cc.z = true) ∨ (p = true ∧ s.cc.p = true) →
        (t.pc.toNat : Int) = ((s.pc.toNat : Int) + 2 + 2 * off.toInt) % 65536) ∧
      (¬((n = true ∧ s.cc.n = true) ∨ (z = true ∧ s.cc.z = true) ∨ (p = true ∧ s.cc.p = true)) →
        t.pc = s.pc + 2#16) ∧
      t.cc = s.cc ∧ KeepsRegs s t ∧ KeepsMemory s t ∧ KeepsPipeline s t) ∧
    (∃ t, exec .nop s = .next t ∧ t.pc = s.pc + 2#16 ∧ t.cc = s.cc ∧ KeepsRegs s t ∧ KeepsMemory s t ∧
      KeepsPipeline s t)

/-- JMP and RET: `pc` takes the register as it is, odd or zero too; nothing else is written (49_isa_memory_control.md R277,
R278, derived by the spec under `UCODE_REF`). -/
def Obligations.JumpResults : Prop :=
  ∀ (s : State) (baseR : RegId),
    (∃ t, exec (.jmp baseR) s = .next t ∧ t.pc = s.reg baseR ∧ t.cc = s.cc ∧ KeepsRegs s t ∧ KeepsMemory s t ∧
      KeepsPipeline s t) ∧
    (∃ t, exec .ret s = .next t ∧ t.pc = s.reg 7#3 ∧ t.cc = s.cc ∧ KeepsRegs s t ∧ KeepsMemory s t ∧ KeepsPipeline s t)

/-- JSR and JSRR: R7 takes NPC, `pc` the target, JSRR's read before R7 is written (so `JSRR R7` jumps to the old R7), and a RET
executed next returns behind the call (49_isa_memory_control.md R278, R279, R280, derived by the spec under `UCODE_REF`). -/
def Obligations.CallResults : Prop :=
  ∀ (s : State) (off : BitVec 11) (baseR : RegId),
    (∃ t u, exec (.jsr off) s = .next t ∧ t.reg 7#3 = s.pc + 2#16 ∧
      (t.pc.toNat : Int) = ((s.pc.toNat : Int) + 2 + 2 * off.toInt) % 65536 ∧ t.cc = s.cc ∧
      KeepsRegsBut 7#3 s t ∧ KeepsMemory s t ∧ KeepsPipeline s t ∧ exec .ret t = .next u ∧ u.pc = s.pc + 2#16) ∧
    (∃ t u, exec (.jsrr baseR) s = .next t ∧ t.reg 7#3 = s.pc + 2#16 ∧ t.pc = s.reg baseR ∧ t.cc = s.cc ∧
      KeepsRegsBut 7#3 s t ∧ KeepsMemory s t ∧ KeepsPipeline s t ∧ exec .ret t = .next u ∧ u.pc = s.pc + 2#16)

/-- TRAP entry and return: R7 takes NPC, `pc` the word at twice the vector, nothing else changes, and RET returns behind the
TRAP; HALT is the trap through the word at 0x004A (49_isa_memory_control.md R282, R283, 60_exceptions.md R302, R306, decisions
and inferences of the spec). -/
def Obligations.TrapResults : Prop :=
  ∀ (s : State) (vec : BitVec 8),
    (∃ (a : Word) (t u : State), a.toNat = 2 * vec.toNat ∧ exec (.trap vec) s = .next t ∧ t.reg 7#3 = s.pc + 2#16 ∧
      t.pc.toNat = 256 * (s.memory.byte (a + 1#16)).toNat + (s.memory.byte a).toNat ∧ t.cc = s.cc ∧
      KeepsRegsBut 7#3 s t ∧ KeepsMemory s t ∧ KeepsPipeline s t ∧ exec .ret t = .next u ∧ u.pc = s.pc + 2#16) ∧
    (∃ t, exec .halt s = .next t ∧ t.reg 7#3 = s.pc + 2#16 ∧
      t.pc.toNat = 256 * (s.memory.byte 0x004B#16).toNat + (s.memory.byte 0x004A#16).toNat ∧ t.cc = s.cc ∧
      KeepsRegsBut 7#3 s t ∧ KeepsMemory s t ∧ KeepsPipeline s t)

/-- RTI and the opcodes 1010 and 1011 have no effect but `pc <- NPC`: they do not trap (49_isa_memory_control.md R284, R285,
decisions of the spec under `UCODE_REF`). -/
def Obligations.NoFunctionOpcodes : Prop :=
  ∀ (i : Instr) (s : State), i = .rti ∨ i = .reserved1010 ∨ i = .reserved1011 →
    ∃ t, exec i s = .next t ∧ t.pc = s.pc + 2#16 ∧ t.cc = s.cc ∧ KeepsRegs s t ∧ KeepsMemory s t ∧ KeepsPipeline s t

/-- Laws of the operates (48_isa_operate.md R263, derived by the spec): commuting operands, NOT twice, `a + NOT a + 1 = 0`, the
shifts against each other, and a left shift by `k` as `k` additions of a register to itself. -/
def Obligations.OperateLaws : Prop :=
  ∀ (s : State) (d a b : RegId) (k : BitVec 4),
    exec (.addReg d a b) s = exec (.addReg d b a) s ∧ exec (.andReg d a b) s = exec (.andReg d b a) s ∧
      exec (.xorReg d a b) s = exec (.xorReg d b a) s ∧
      (∃ t, execAll [.notReg d a, .notReg d d] s = .next t ∧ t.reg d = s.reg a) ∧
      (d ≠ a → ∃ t, execAll [.notReg d a, .addReg d d a, .addImm d d 1] s = .next t ∧ t.reg d = 0x0000#16 ∧
        t.cc = ⟨false, true, false⟩) ∧
      (∃ t, execAll [.lshf d a k, .rshfl d d k] s = .next t ∧ t.reg d = s.reg a &&& (0xFFFF#16 >>> k.toNat)) ∧
      ((s.reg a).msb = false → exec (.rshfa d a k) s = exec (.rshfl d a k) s) ∧
      (∃ t u, exec (.lshf d d k) s = .next t ∧ execAll (List.replicate k.toNat (.addReg d d d)) s = .next u ∧
        t.reg d = u.reg d)

/-- A load returns the latest store to its bytes, whatever registers address the two (20_memory.md R54, R65, derived by the
spec; 49_isa_memory_control.md R271 to R274): a word store read back by a load of the same word or of either of its bytes, and
a byte store by a load of that byte or of the containing word, whose other byte is as before. A later store to the same bytes
replaces an earlier one. -/
def Obligations.LoadAfterStore : Prop :=
  ∀ (s : State) (sr b1 dr b2 : RegId) (o1 o2 : BitVec 6),
    let aw := wordAddress (s.reg b1) o1
    let ab := byteAddress (s.reg b1) o1
    let lw := wordAddress (s.reg b2) o2
    let lb := byteAddress (s.reg b2) o2
    (lw &&& 0xFFFE#16 = aw &&& 0xFFFE#16 →
      ∃ t, execAll [.stw sr b1 o1, .ldw dr b2 o2] s = .next t ∧ t.reg dr = s.reg sr) ∧
    (lb = aw &&& 0xFFFE#16 → ∃ t, execAll [.stw sr b1 o1, .ldb dr b2 o2] s = .next t ∧
      (t.reg dr).toInt = ((s.reg sr).extractLsb' 0 8).toInt) ∧
    (lb = aw ||| 0x0001#16 → ∃ t, execAll [.stw sr b1 o1, .ldb dr b2 o2] s = .next t ∧
      (t.reg dr).toInt = ((s.reg sr).extractLsb' 8 8).toInt) ∧
    (lb = ab → ∃ t, execAll [.stb sr b1 o1, .ldb dr b2 o2] s = .next t ∧
      (t.reg dr).toInt = ((s.reg sr).extractLsb' 0 8).toInt) ∧
    (lw &&& 0xFFFE#16 = ab &&& 0xFFFE#16 → ∃ t, execAll [.stb sr b1 o1, .ldw dr b2 o2] s = .next t ∧
      (t.reg dr).toNat =
        if ab.getLsbD 0 then 256 * ((s.reg sr).toNat % 256) + (s.memory.byte (ab &&& 0xFFFE#16)).toNat
        else 256 * (s.memory.byte (ab ||| 0x0001#16)).toNat + (s.reg sr).toNat % 256) ∧
    (∃ t, exec (.stb sr b1 o1) s = .next t ∧ t.memory.byte (ab ^^^ 1#16) = s.memory.byte (ab ^^^ 1#16)) ∧
    (∀ sr' : RegId, ∃ t u, execAll [.stw sr' b1 o1, .stw sr b1 o1] s = .next t ∧ exec (.stw sr b1 o1) s = .next u ∧
      ∀ c : Word, t.memory.byte c = u.memory.byte c)

/-! ### The pipeline executes the instructions -/

/-- The datapath computes the instruction rules (00_scope.md R12, 48_isa_operate.md R250, 49_isa_memory_control.md R270, derived
by the spec): under `UCODE_REF`, from a state with nothing in flight, the instruction at `pc` (any of the 65536 words) has
written memory after four cycles and registers and flags after five as `exec` says, and a control transfer has set `pc` after
four. The instruction port answers in the cycles that fetch it and resolve it, the data port in the cycle it is in MEM;
nothing is asked of the instructions fetched behind it. -/
def Obligations.PipelineRetiresDecodedInstruction : Prop :=
  ∀ (P : Params) (s t : State), P.ucode = ucodeRef → Drained s → P.icacheReady s.cycleCount = true →
    P.icacheReady (s.cycleCount + 3) = true → P.dcacheReady (s.cycleCount + 3) = true →
    exec (fetchInstr s) s = .next t →
    (cycles P 4 s).memory = t.memory ∧ (cycles P 4 s).regs = s.regs ∧ (cycles P 5 s).regs = t.regs ∧
      (cycles P 5 s).cc = t.cc ∧ (isTransfer (fetchInstr s) = true → (cycles P 4 s).pc = t.pc)

/-- The spec's main property (49_isa_memory_control.md R287, the spec's claim about its own rules): a run of the pipeline from a
drained state to the halt ends with the registers, flags and memory with which the sequential machine stops, under `UCODE_REF`
(Q1), when no redirect is lost (Q2), no valid instruction in DE or AGEX was fetched from a word a store then modifies (Q3),
and `pc` became 0 through a control transfer (Q5). That the run ends is a premise, which stands for Q4. -/
def Obligations.PipelineMatchesSequentialMachine : Prop :=
  ∀ (P : Params) (s : State) (n : Nat), P.ucode = ucodeRef → Drained s → s.run = true →
    (∀ k ≤ n, (cycles P k s).pc ≠ 0x0000#16) → (cycles P (n + 1) s).pc = 0x0000#16 →
    (signals P (cycles P n s)).mem.memPcMux ≠ 0#2 →
    (∀ k ≤ n, redirectLost P (cycles P k s) = false ∧ staleFetch P (cycles P k s) = false) →
    ∃ (m : Nat) (t : State), sequentialRun m s = .next t ∧ t.pc = 0x0000#16 ∧
      t.regs = (hostRun P (n + 2) s).regs ∧ t.cc = (hostRun P (n + 2) s).cc ∧
      t.memory = (hostRun P (n + 2) s).memory ∧ (hostRun P (n + 2) s).run = false
end

