-- ==== Sys2Proof/Laws/Bits.lean ====
section
/-! SUPPORT. The bit container and the instruction fields, one lemma for each definition. -/

namespace Sys2Proof.Machine.Bits

@[simp] theorem bit_eq {w : Nat} (x : BitVec w) (i : Nat) (h : IndexOk w i) : bit x i h = x.getLsbD i := rfl

/-- `make` masks to the width (R101); on a value that fits nothing is lost (R112 (a)). -/
theorem toNumber_make (w n : Nat) (h : WidthOk w) : toNumber (make w n h) h = n % 2 ^ w := BitVec.toNat_ofNat n w

theorem range_eq {w : Nat} (x : BitVec w) (hi lo : Nat) (h : RangeOk w hi lo) :
    range x hi lo h = x.extractLsb' lo (hi - lo + 1) := rfl

/-- Bit `k` of a range is bit `lo + k` of the container (40_bit_primitives.md R103). -/
theorem getLsbD_range {w : Nat} (x : BitVec w) (hi lo k : Nat) (h : RangeOk w hi lo) :
    (range x hi lo h).getLsbD k = (decide (k < hi - lo + 1) && x.getLsbD (lo + k)) := by
  simp [range_eq]

/-- The value of a range (R103). -/
theorem toNat_range {w : Nat} (x : BitVec w) (hi lo : Nat) (h : RangeOk w hi lo) :
    (range x hi lo h).toNat = (x.toNat >>> lo) % 2 ^ (hi - lo + 1) := by
  simp [range_eq]

/-- `sext_N(f)` is `make(16, f).sign_extend(N - 1)` (00_scope.md R10, R105). -/
theorem sext_eq_signExtendFrom {n : Nat} (f : BitVec n) (h0 : 1 ≤ n ∧ n ≤ 16) :
    sext f h0 = signExtendFrom (make 16 f.toNat) (n - 1) ⟨by omega, by decide⟩ := by
  have h := h0.2
  unfold sext signExtendFrom make
  rw [BitVec.ofNat_toNat]
  obtain ⟨m, rfl⟩ : ∃ m, n = m + 1 := ⟨n - 1, by omega⟩
  show f.signExtend 16 = ((f.setWidth 16).setWidth (m + 1)).signExtend 16
  congr 1
  apply BitVec.eq_of_toNat_eq
  have := f.isLt
  have h2 : 2 ^ (m + 1) ≤ 2 ^ 16 := Nat.pow_le_pow_right (by omega) h
  simp only [BitVec.toNat_setWidth]
  rw [Nat.mod_eq_of_lt (by omega : f.toNat < 2 ^ 16), Nat.mod_eq_of_lt this]

/-- `zext_N(f)` is `make(16, f).zero_extend(N - 1)` (00_scope.md R10, R106). -/
theorem zext_eq_zeroExtendFrom {n : Nat} (f : BitVec n) (h0 : 1 ≤ n ∧ n ≤ 16) :
    zext f h0 = zeroExtendFrom (make 16 f.toNat) (n - 1) ⟨by omega, by decide⟩ := by
  have h := h0.2
  unfold zext zeroExtendFrom make
  rw [BitVec.ofNat_toNat]
  obtain ⟨m, rfl⟩ : ∃ m, n = m + 1 := ⟨n - 1, by omega⟩
  apply BitVec.eq_of_toNat_eq
  have := f.isLt
  have h2 : 2 ^ (m + 1) ≤ 2 ^ 16 := Nat.pow_le_pow_right (by omega) h
  simp only [Nat.add_sub_cancel, BitVec.toNat_setWidth]
  rw [Nat.mod_eq_of_lt (by omega : f.toNat < 2 ^ 16), Nat.mod_eq_of_lt this, Nat.mod_eq_of_lt (by omega)]

end Sys2Proof.Machine.Bits

namespace Sys2Proof.Machine

theorem fieldOpcode_eq (ir : Word) : fieldOpcode ir = ir.extractLsb' 12 4 := rfl
theorem fieldDR_eq (ir : Word) : fieldDR ir = ir.extractLsb' 9 3 := rfl
theorem fieldSR1_eq (ir : Word) : fieldSR1 ir = ir.extractLsb' 6 3 := rfl
theorem fieldSR2_eq (ir : Word) : fieldSR2 ir = ir.extractLsb' 0 3 := rfl
theorem fieldImm5_eq (ir : Word) : fieldImm5 ir = ir.extractLsb' 0 5 := rfl
theorem fieldOffset6_eq (ir : Word) : fieldOffset6 ir = ir.extractLsb' 0 6 := rfl
theorem fieldPcOffset9_eq (ir : Word) : fieldPcOffset9 ir = ir.extractLsb' 0 9 := rfl
theorem fieldPcOffset11_eq (ir : Word) : fieldPcOffset11 ir = ir.extractLsb' 0 11 := rfl
theorem fieldTrapvect8_eq (ir : Word) : fieldTrapvect8 ir = ir.extractLsb' 0 8 := rfl
theorem fieldAmount4_eq (ir : Word) : fieldAmount4 ir = ir.extractLsb' 0 4 := rfl
theorem fieldRowHigh_eq (ir : Word) : fieldRowHigh ir = ir.extractLsb' 11 5 := rfl

theorem flagAt_eq {n : Nat} (first : Nat) (cs : BitVec n) (f : ControlField) (h : HasFlag first n f) :
    flagAt first cs f h = cs.getLsbD (f.position - first) := rfl

theorem pairAt_eq {n : Nat} (first : Nat) (cs : BitVec n) (f : ControlField) (h : HasPair first n f) :
    pairAt first cs f h =
      BitVec.ofBool (cs.getLsbD (f.position - first)) ++ BitVec.ofBool (cs.getLsbD (f.position - first + 1)) := rfl

/-- The row of a word is `2 * IR[15:11] + IR[5]` (41_control_store.md R121). -/
theorem controlRow_toNat (ir : Word) :
    (controlRow ir).toNat = 2 * (fieldRowHigh ir).toNat + (Bits.bit ir 5).toNat := by
  have h : (Bits.bit ir 5).toNat < 2 := Bool.toNat_lt _
  simp only [controlRow, BitVec.toNat_append, BitVec.toNat_ofBool]
  rw [Nat.shiftLeft_eq, Nat.mul_comm, ← Nat.two_pow_add_eq_or_of_lt (by simpa using h), pow_one]

end Sys2Proof.Machine
end

