-- ==== Sys2Proof/Laws/Memory.lean ====
section
/-! SUPPORT. Memory: what a byte reads as after a write, and the canonical form kept by every memory operation. -/

namespace Sys2Proof.Machine

theorem readAt_erase (m : Memory) (a c : Nat) :
    (m.erase a).readAt c = if c = a then Memory.unlisted else m.readAt c := by
  induction m with
  | nil => simp [Memory.erase, Memory.readAt]
  | cons e rest ih =>
    obtain ⟨k, b⟩ := e
    unfold Memory.erase at ih ⊢
    rw [List.filter_cons]
    by_cases hk : k = a
    · subst hk
      simp only [bne_self_eq_false, Bool.false_eq_true, if_false, ih, Memory.readAt]
      by_cases hc : c = k
      · simp [hc]
      · simp [hc, Ne.symm hc]
    · have : ((k, b).1 != a) = true := by simpa using hk
      rw [if_pos this]
      simp only [Memory.readAt, ih]
      by_cases hc : k = c
      · subst hc; simp [hk]
      · simp [hc]

theorem readAt_insert (m : Memory) (a c : Nat) (v : Byte) (h : ∀ e ∈ m, e.1 ≠ a) :
    (m.insert a v).readAt c = if c = a then v else m.readAt c := by
  induction m with
  | nil => simp [Memory.insert, Memory.readAt, eq_comm]
  | cons e rest ih =>
    obtain ⟨k, b⟩ := e
    have hk : k ≠ a := h (k, b) (by simp)
    unfold Memory.insert
    split
    · simp [Memory.readAt, eq_comm]
    · rw [Memory.readAt, ih (fun e he => h e (by simp [he]))]
      by_cases hc : k = c
      · subst hc; simp [hk, Memory.readAt]
      · simp [hc, Memory.readAt]

theorem mem_erase_ne (m : Memory) (a : Nat) : ∀ e ∈ m.erase a, e.1 ≠ a := by
  intro e he
  simpa [Memory.erase] using (List.mem_filter.mp he).2

/-- What a byte reads as after one byte is written, in every memory. -/
theorem readAt_writeAt (m : Memory) (a c : Nat) (v : Byte) :
    (m.writeAt a v).readAt c = if c = a then v else m.readAt c := by
  unfold Memory.writeAt
  split
  · next h => subst h; exact readAt_erase m a c
  · rw [readAt_insert _ _ _ _ (mem_erase_ne m a), readAt_erase]
    by_cases hc : c = a <;> simp [hc]

theorem wf_iff (m : Memory) :
    m.wf = true ↔ m.Pairwise (fun c d => c.1 < d.1) ∧ ∀ c ∈ m, c.1 < 65536 ∧ c.2 ≠ Memory.unlisted := by
  simp [Memory.wf]

theorem wf_nil : Memory.wf [] = true := by decide

theorem wf_erase (m : Memory) (a : Nat) (h : m.wf = true) : (m.erase a).wf = true := by
  rw [wf_iff] at h ⊢
  exact ⟨h.1.filter _, fun c hc => h.2 c (List.mem_of_mem_filter hc)⟩

theorem mem_insert (m : Memory) (a : Nat) (v : Byte) (e : Host.Cell) :
    e ∈ m.insert a v ↔ e = (a, v) ∨ e ∈ m := by
  induction m with
  | nil => simp [Memory.insert]
  | cons x rest ih =>
    obtain ⟨k, b⟩ := x
    unfold Memory.insert
    split
    · simp
    · simp only [List.mem_cons, ih]
      tauto

theorem pairwise_insert (m : Memory) (a : Nat) (v : Byte) (h : m.Pairwise (fun c d => c.1 < d.1))
    (hne : ∀ e ∈ m, e.1 ≠ a) : (m.insert a v).Pairwise (fun c d => c.1 < d.1) := by
  induction m with
  | nil => simp [Memory.insert]
  | cons x rest ih =>
    obtain ⟨k, b⟩ := x
    rw [List.pairwise_cons] at h
    unfold Memory.insert
    split
    · next hlt =>
      rw [List.pairwise_cons]
      refine ⟨?_, List.pairwise_cons.mpr h⟩
      intro e he
      rcases List.mem_cons.mp he with rfl | he
      · exact hlt
      · exact lt_trans hlt (h.1 e he)
    · next hlt =>
      rw [List.pairwise_cons]
      refine ⟨?_, ih h.2 (fun e he => hne e (by simp [he]))⟩
      intro e he
      rcases (mem_insert _ _ _ _).mp he with rfl | he
      · have : k ≠ a := hne (k, b) (by simp)
        show k < a
        omega
      · exact h.1 e he

/-- A byte write at an address of the address space keeps the canonical form. -/
theorem wf_writeAt (m : Memory) (a : Nat) (v : Byte) (ha : a < 65536) (h : m.wf = true) :
    (m.writeAt a v).wf = true := by
  unfold Memory.writeAt
  split
  · exact wf_erase m a h
  · next hv =>
    have he := wf_erase m a h
    rw [wf_iff] at he ⊢
    refine ⟨pairwise_insert _ _ _ he.1 (mem_erase_ne m a), ?_⟩
    intro c hc
    rcases (mem_insert _ _ _ _).mp hc with rfl | hc
    · exact ⟨ha, hv⟩
    · exact he.2 c hc

theorem lowAddr_lt (w : WordAddr) : lowAddr w < 65536 := by
  have := w.isLt
  unfold lowAddr
  omega

theorem highAddr_lt (w : WordAddr) : highAddr w < 65536 := by
  have := w.isLt
  unfold highAddr
  omega

theorem lowAddr_ne_highAddr (w w' : WordAddr) : lowAddr w ≠ highAddr w' := by
  unfold lowAddr highAddr
  omega

theorem wf_setLow (m : Memory) (w : WordAddr) (b : Byte) (h : m.wf = true) : (m.setLow w b).wf = true :=
  wf_writeAt m _ b (lowAddr_lt w) h

theorem wf_setHigh (m : Memory) (w : WordAddr) (b : Byte) (h : m.wf = true) : (m.setHigh w b).wf = true :=
  wf_writeAt m _ b (highAddr_lt w) h

/-- Everything a masked word write does to a byte (20_memory.md R59). -/
theorem readAt_writeMasked (m : Memory) (w : WordAddr) (v : Word) (lo hi : Bool) (c : Nat) :
    (m.writeMasked w v lo hi).readAt c =
      if hi = true ∧ c = highAddr w then Bits.range v 15 8
      else if lo = true ∧ c = lowAddr w then Bits.range v 7 0
      else m.readAt c := by
  cases lo <;> cases hi <;> simp [Memory.writeMasked, Memory.setLow, Memory.setHigh, readAt_writeAt]

theorem wf_writeMasked (m : Memory) (w : WordAddr) (v : Word) (lo hi : Bool) (h : m.wf = true) :
    (m.writeMasked w v lo hi).wf = true := by
  cases lo <;> cases hi <;> simp [Memory.writeMasked, wf_setLow, wf_setHigh, h]

theorem wf_memWriteWord (m : Memory) (a v : Word) (h : m.wf = true) : (memWriteWord m a v).wf = true :=
  wf_writeMasked m _ v true true h

theorem wf_memWriteByte (m : Memory) (a : Word) (v : Byte) (h : m.wf = true) : (memWriteByte m a v).wf = true := by
  unfold memWriteByte
  split
  · exact wf_setHigh m _ v h
  · exact wf_setLow m _ v h

theorem wf_dcacheAccess (P : Params) (c : Nat) (m : Memory) (a v : Word) (lo hi : Bool) (h : m.wf = true) :
    (dcacheAccess P c m a v lo hi).memory.wf = true := by
  unfold dcacheAccess
  split
  · exact wf_writeMasked m _ v lo hi h
  · exact h

theorem wf_loadFile (m : Memory) (base : WordAddr) (ws : List Word) (h : m.wf = true) :
    (m.loadFile base ws).wf = true := by
  induction ws generalizing m base with
  | nil => exact h
  | cons v rest ih => exact ih _ _ (wf_writeMasked m base v true true h)

theorem wf_reset : State.reset.memory.wf = true := by decide

/-- The word of a word address by its two bytes (20_memory.md R50). -/
theorem word_toNat (m : Memory) (w : WordAddr) :
    (m.word w).toNat = 256 * (m.getHigh w).toNat + (m.getLow w).toNat := by
  have h := (m.getLow w).isLt
  simp only [Memory.word, BitVec.toNat_append]
  rw [Nat.shiftLeft_eq, Nat.mul_comm, ← Nat.two_pow_add_eq_or_of_lt h]

/-- The low plane lies at the even address of the word (R53). -/
theorem lowAddr_wordAddr (a : Word) : lowAddr (wordAddr a) = a.toNat - a.toNat % 2 := by
  have h := a.isLt
  simp only [lowAddr, wordAddr, Bits.toNat_range, Nat.shiftRight_eq_div_pow]
  omega

/-- The high plane lies at the odd address of the word (R53). -/
theorem highAddr_wordAddr (a : Word) : highAddr (wordAddr a) = a.toNat - a.toNat % 2 + 1 := by
  have := lowAddr_wordAddr a
  unfold lowAddr at this
  unfold highAddr
  omega

/-- Bit 0 of an address is its parity. -/
theorem bit_zero_eq (a : Word) : Bits.bit a 0 = decide (a.toNat % 2 = 1) := by
  simp only [Bits.bit, BitVec.getLsbD, Nat.testBit_zero]

/-- A byte read is the byte at its own address (R56). -/
theorem memReadByte_eq (m : Memory) (a : Word) : memReadByte m a = m.byte a := by
  unfold memReadByte Memory.getHigh Memory.getLow Memory.byte
  rw [highAddr_wordAddr, lowAddr_wordAddr, bit_zero_eq]
  split
  · next h => congr 1; have := of_decide_eq_true h; omega
  · next h => congr 1; have : ¬ _ := fun h' => h (decide_eq_true h'); omega

/-- A byte write changes the byte at its own address and nothing else (R57). -/
theorem readAt_memWriteByte (m : Memory) (a : Word) (v : Byte) (c : Nat) :
    (memWriteByte m a v).readAt c = if c = a.toNat then v else m.readAt c := by
  have key : memWriteByte m a v = m.writeAt a.toNat v := by
    unfold memWriteByte Memory.setHigh Memory.setLow
    rw [highAddr_wordAddr, lowAddr_wordAddr, bit_zero_eq]
    split
    · next h => congr 1; have := of_decide_eq_true h; omega
    · next h => congr 1; have : ¬ _ := fun h' => h (decide_eq_true h'); omega
  rw [key, readAt_writeAt]

end Sys2Proof.Machine
end

