-- ==== Sys2Proof/Laws/State.lean ====
section
/-! SUPPORT. The state record: one lemma per field per update, all by rfl, so that no later proof unfolds a record
update; and the register file read after a write. -/

namespace Sys2Proof.Machine

section
variable (s : State) (r : RegId) (v : Word)

@[simp] theorem setReg_pc : (s.setReg r v).pc = s.pc := rfl
@[simp] theorem setReg_regs : (s.setReg r v).regs = writeReg s.regs r v := rfl
@[simp] theorem setReg_cc : (s.setReg r v).cc = s.cc := rfl
@[simp] theorem setReg_memory : (s.setReg r v).memory = s.memory := rfl
@[simp] theorem setReg_cycleCount : (s.setReg r v).cycleCount = s.cycleCount := rfl
@[simp] theorem setReg_de : (s.setReg r v).de = s.de := rfl
@[simp] theorem setReg_agex : (s.setReg r v).agex = s.agex := rfl
@[simp] theorem setReg_mem : (s.setReg r v).mem = s.mem := rfl
@[simp] theorem setReg_sr : (s.setReg r v).sr = s.sr := rfl
@[simp] theorem setReg_run : (s.setReg r v).run = s.run := rfl
@[simp] theorem setReg_engine : (s.setReg r v).engine = s.engine := rfl
@[simp] theorem setReg_draws : (s.setReg r v).draws = s.draws := rfl

end

section
variable (s : State) (v : Word)

@[simp] theorem setCC_pc : (s.setCC v).pc = s.pc := rfl
@[simp] theorem setCC_regs : (s.setCC v).regs = s.regs := rfl
@[simp] theorem setCC_cc : (s.setCC v).cc = ccOf v := rfl
@[simp] theorem setCC_memory : (s.setCC v).memory = s.memory := rfl
@[simp] theorem setCC_cycleCount : (s.setCC v).cycleCount = s.cycleCount := rfl
@[simp] theorem setCC_de : (s.setCC v).de = s.de := rfl
@[simp] theorem setCC_agex : (s.setCC v).agex = s.agex := rfl
@[simp] theorem setCC_mem : (s.setCC v).mem = s.mem := rfl
@[simp] theorem setCC_sr : (s.setCC v).sr = s.sr := rfl
@[simp] theorem setCC_run : (s.setCC v).run = s.run := rfl
@[simp] theorem setCC_engine : (s.setCC v).engine = s.engine := rfl
@[simp] theorem setCC_draws : (s.setCC v).draws = s.draws := rfl

end

section
variable (s : State) (t : Word)

@[simp] theorem setPc_pc : (s.setPc t).pc = t := rfl
@[simp] theorem setPc_regs : (s.setPc t).regs = s.regs := rfl
@[simp] theorem setPc_cc : (s.setPc t).cc = s.cc := rfl
@[simp] theorem setPc_memory : (s.setPc t).memory = s.memory := rfl
@[simp] theorem setPc_cycleCount : (s.setPc t).cycleCount = s.cycleCount := rfl
@[simp] theorem setPc_de : (s.setPc t).de = s.de := rfl
@[simp] theorem setPc_agex : (s.setPc t).agex = s.agex := rfl
@[simp] theorem setPc_mem : (s.setPc t).mem = s.mem := rfl
@[simp] theorem setPc_sr : (s.setPc t).sr = s.sr := rfl
@[simp] theorem setPc_run : (s.setPc t).run = s.run := rfl
@[simp] theorem setPc_engine : (s.setPc t).engine = s.engine := rfl
@[simp] theorem setPc_draws : (s.setPc t).draws = s.draws := rfl

end

section
variable (s : State) (m : Memory)

@[simp] theorem setMemory_pc : (s.setMemory m).pc = s.pc := rfl
@[simp] theorem setMemory_regs : (s.setMemory m).regs = s.regs := rfl
@[simp] theorem setMemory_cc : (s.setMemory m).cc = s.cc := rfl
@[simp] theorem setMemory_memory : (s.setMemory m).memory = m := rfl
@[simp] theorem setMemory_cycleCount : (s.setMemory m).cycleCount = s.cycleCount := rfl
@[simp] theorem setMemory_de : (s.setMemory m).de = s.de := rfl
@[simp] theorem setMemory_agex : (s.setMemory m).agex = s.agex := rfl
@[simp] theorem setMemory_mem : (s.setMemory m).mem = s.mem := rfl
@[simp] theorem setMemory_sr : (s.setMemory m).sr = s.sr := rfl
@[simp] theorem setMemory_run : (s.setMemory m).run = s.run := rfl
@[simp] theorem setMemory_engine : (s.setMemory m).engine = s.engine := rfl
@[simp] theorem setMemory_draws : (s.setMemory m).draws = s.draws := rfl

end

section
variable (s : State)

@[simp] theorem stop_pc : s.stop.pc = s.pc := rfl
@[simp] theorem stop_regs : s.stop.regs = s.regs := rfl
@[simp] theorem stop_cc : s.stop.cc = s.cc := rfl
@[simp] theorem stop_memory : s.stop.memory = s.memory := rfl
@[simp] theorem stop_cycleCount : s.stop.cycleCount = s.cycleCount := rfl
@[simp] theorem stop_de : s.stop.de = s.de := rfl
@[simp] theorem stop_agex : s.stop.agex = s.agex := rfl
@[simp] theorem stop_mem : s.stop.mem = s.mem := rfl
@[simp] theorem stop_sr : s.stop.sr = s.sr := rfl
@[simp] theorem stop_run : s.stop.run = false := rfl
@[simp] theorem stop_engine : s.stop.engine = s.engine := rfl
@[simp] theorem stop_draws : s.stop.draws = s.draws := rfl

end

/-- Reading a register after writing one: the value written, else what was there (00_scope.md R10). -/
theorem reg_setReg (s : State) (r q : RegId) (v : Word) :
    (s.setReg r v).reg q = if q = r then v else s.reg q := by
  simp only [State.reg, State.setReg, writeReg, Vector.getElem_set, BitVec.toNat_inj, eq_comm]

@[simp] theorem reg_setReg_self (s : State) (r : RegId) (v : Word) : (s.setReg r v).reg r = v := by
  simp [reg_setReg]

theorem reg_setReg_of_ne (s : State) (r q : RegId) (v : Word) (h : q ≠ r) : (s.setReg r v).reg q = s.reg q := by
  simp [reg_setReg, h]

@[simp] theorem reg_setCC (s : State) (v : Word) (q : RegId) : (s.setCC v).reg q = s.reg q := rfl

@[simp] theorem reg_setPc (s : State) (t : Word) (q : RegId) : (s.setPc t).reg q = s.reg q := rfl

@[simp] theorem reg_setMemory (s : State) (m : Memory) (q : RegId) : (s.setMemory m).reg q = s.reg q := rfl

/-- Two register files that agree at every id are equal. -/
theorem regs_ext (a b : Vector Word 8) (h : ∀ r : RegId, a[r.toNat]'(r.isLt) = b[r.toNat]'(r.isLt)) : a = b := by
  apply Vector.ext
  intro i hi
  have := h (BitVec.ofNat 3 i)
  simpa [BitVec.toNat_ofNat, Nat.mod_eq_of_lt hi] using this

/-- The shared effects of the instruction rules, in terms of the four updates. -/
@[simp] theorem npc_eq (s : State) : s.npc = s.pc + 2#16 := rfl

@[simp] theorem advance_eq (s : State) : s.advance = s.setPc (s.pc + 2#16) := rfl

@[simp] theorem writeResult_eq (s : State) (dr : RegId) (v : Word) :
    s.writeResult dr v = ((s.setReg dr v).setCC v).setPc (s.pc + 2#16) := rfl

@[simp] theorem writeAddress_eq (s : State) (dr : RegId) (v : Word) :
    s.writeAddress dr v = (s.setReg dr v).setPc (s.pc + 2#16) := rfl

@[simp] theorem store_eq (s : State) (m : Memory) : s.store m = (s.setMemory m).setPc (s.pc + 2#16) := rfl

@[simp] theorem branchIf_eq (s : State) (taken : Bool) (t : Word) :
    s.branchIf taken t = s.setPc (if taken then t else s.pc + 2#16) := rfl

@[simp] theorem callTo_eq (s : State) (t : Word) : s.callTo t = (s.setReg 7#3 (s.pc + 2#16)).setPc t := rfl

@[simp] theorem trapEnter_eq (s : State) (v : BitVec 8) :
    s.trapEnter v = s.callTo (memReadWord s.memory (trapVectorAddress v)) := rfl

@[simp] theorem trapReturn_eq (s : State) : s.trapReturn = s.setPc (s.reg 7#3) := rfl

end Sys2Proof.Machine
end

