-- ==== Sys2Proof/Laws/Exec.lean ====
section
/-! SUPPORT. What `exec` answers for each instruction, in terms of the shared operations, and what those operations do: the
equations the provers cite instead of unfolding a meaning. -/

namespace Sys2Proof.Machine

section
variable (s : State) (dr sr1 sr2 : RegId)

@[simp] theorem exec_addReg : exec (.addReg dr sr1 sr2) s = .next (s.writeResult dr (s.reg sr1 + s.reg sr2)) := rfl

@[simp] theorem exec_addImm (imm5 : BitVec 5) :
    exec (.addImm dr sr1 imm5) s = .next (s.writeResult dr (s.reg sr1 + imm5.signExtend 16)) := rfl

@[simp] theorem exec_andReg : exec (.andReg dr sr1 sr2) s = .next (s.writeResult dr (s.reg sr1 &&& s.reg sr2)) := rfl

@[simp] theorem exec_andImm (imm5 : BitVec 5) :
    exec (.andImm dr sr1 imm5) s = .next (s.writeResult dr (s.reg sr1 &&& imm5.signExtend 16)) := rfl

@[simp] theorem exec_xorReg : exec (.xorReg dr sr1 sr2) s = .next (s.writeResult dr (s.reg sr1 ^^^ s.reg sr2)) := rfl

@[simp] theorem exec_xorImm (imm5 : BitVec 5) :
    exec (.xorImm dr sr1 imm5) s = .next (s.writeResult dr (s.reg sr1 ^^^ imm5.signExtend 16)) := rfl

@[simp] theorem exec_notReg : exec (.notReg dr sr1) s = .next (s.writeResult dr (s.reg sr1 ^^^ 0xFFFF#16)) := rfl

@[simp] theorem exec_lshf (k : BitVec 4) : exec (.lshf dr sr1 k) s = .next (s.writeResult dr (s.reg sr1 <<< k.toNat)) := rfl

@[simp] theorem exec_rshfl (k : BitVec 4) :
    exec (.rshfl dr sr1 k) s = .next (s.writeResult dr (s.reg sr1 >>> k.toNat)) := rfl

@[simp] theorem exec_rshfa (k : BitVec 4) :
    exec (.rshfa dr sr1 k) s = .next (s.writeResult dr ((s.reg sr1).sshiftRight k.toNat)) := rfl

@[simp] theorem exec_lea (off : BitVec 9) :
    exec (.lea dr off) s = .next (s.writeAddress dr (pcRelative (s.pc + 2#16) off)) := rfl

@[simp] theorem exec_ldb (off : BitVec 6) : exec (.ldb dr sr1 off) s =
    .next (s.writeResult dr ((memReadByte s.memory (byteAddress (s.reg sr1) off)).signExtend 16)) := rfl

@[simp] theorem exec_ldw (off : BitVec 6) : exec (.ldw dr sr1 off) s =
    .next (s.writeResult dr (memReadWord s.memory (wordAddress (s.reg sr1) off))) := rfl

@[simp] theorem exec_stb (off : BitVec 6) : exec (.stb dr sr1 off) s =
    .next (s.store (memWriteByte s.memory (byteAddress (s.reg sr1) off) ((s.reg dr).extractLsb' 0 8))) := rfl

@[simp] theorem exec_stw (off : BitVec 6) : exec (.stw dr sr1 off) s =
    .next (s.store (memWriteWord s.memory (wordAddress (s.reg sr1) off) (s.reg dr))) := rfl

@[simp] theorem exec_br (n z p : Bool) (off : BitVec 9) : exec (.br n z p off) s =
    .next (s.branchIf (branchCond n z p s.cc) (pcRelative (s.pc + 2#16) off)) := rfl

@[simp] theorem exec_nop : exec .nop s = .next s.advance := rfl

@[simp] theorem exec_jmp : exec (.jmp sr1) s = .next (s.setPc (s.reg sr1)) := rfl

@[simp] theorem exec_ret : exec .ret s = .next s.trapReturn := rfl

@[simp] theorem exec_jsr (off : BitVec 11) :
    exec (.jsr off) s = .next (s.callTo (pcRelative (s.pc + 2#16) off)) := rfl

@[simp] theorem exec_jsrr : exec (.jsrr sr1) s = .next (s.callTo (s.reg sr1)) := rfl

@[simp] theorem exec_trap (v : BitVec 8) : exec (.trap v) s = .next (s.trapEnter v) := rfl

@[simp] theorem exec_halt : exec .halt s = .next (s.trapEnter 0x25#8) := rfl

@[simp] theorem exec_rti : exec .rti s = .next s.advance := rfl

@[simp] theorem exec_reserved1010 : exec .reserved1010 s = .next s.advance := rfl

@[simp] theorem exec_reserved1011 : exec .reserved1011 s = .next s.advance := rfl

end

/-- The sign of a 16-bit value is its bit 15 (43_stage_sr.md R152). -/
theorem flagN_iff (v : Word) : flagN v = true ↔ v.toInt < 0 := by
  have h : flagN v = v.msb := (BitVec.msb_eq_getLsbD_last v).symm
  rw [h, BitVec.msb_eq_toInt, decide_eq_true_iff]

/-- Every value has exactly one of the three signs (R152, 10_state.md R25). -/
theorem ccOf_oneHot (v : Word) : (ccOf v).oneHot = true := by
  have hz : flagZ v = true → flagN v = false := by
    intro h
    have : v = 0#16 := by simpa [flagZ] using h
    subst this
    decide
  cases hn : flagN v <;> cases hz' : flagZ v <;> simp_all [ccOf, flagP, CC.oneHot]

/-- A trap vector's word lies at twice the vector (45_stage_agex.md R184). -/
theorem trapVectorAddress_toNat (v : BitVec 8) : (trapVectorAddress v).toNat = 2 * v.toNat := by
  have := v.isLt
  simp only [trapVectorAddress, Bits.timesTwo, Bits.zext, BitVec.toNat_shiftLeft, BitVec.toNat_setWidth,
    Nat.shiftLeft_eq]
  omega

/-- What the sequential machine's step is, away from the halt address (49_isa_memory_control.md R287). -/
theorem sequentialStep_of_ne (s : State) (h : s.pc ≠ 0x0000#16) : sequentialStep s = exec (fetchInstr s) s := by
  simp [sequentialStep, h]

end Sys2Proof.Machine
end

