-- ==== Sys2Proof/Laws/PerInstr.lean ====
section
/-! SUPPORT. The family EncodeInRow: the word of an instruction matches the instruction's own row of the opcode table
(30_encoding.md R87), one lemma per constructor. -/

namespace Sys2Proof.Laws.EncodeInRow

/-- `(encode i & mask) == match` for the row of `i` (R87). -/
def Statement (i : Instr) : Prop := encode i &&& (tableRow i).1 = (tableRow i).2

theorem addReg (dr sr1 sr2 : RegId) : Statement (.addReg dr sr1 sr2) := by
  revert dr sr1 sr2
  simp only [Statement]
  decide

theorem addImm (dr sr1 : RegId) (imm5 : BitVec 5) : Statement (.addImm dr sr1 imm5) := by
  show (1#4 ++ dr ++ sr1 ++ 1#1 ++ imm5 &&& (15#4 ++ 0#3 ++ 0#3 ++ 1#1 ++ 0#5) : BitVec (4 + 3 + 3 + 1 + 5)) = _
  simp only [BitVec.and_append, BitVec.and_zero]
  rfl

theorem andReg (dr sr1 sr2 : RegId) : Statement (.andReg dr sr1 sr2) := by
  revert dr sr1 sr2
  simp only [Statement]
  decide

theorem andImm (dr sr1 : RegId) (imm5 : BitVec 5) : Statement (.andImm dr sr1 imm5) := by
  show (5#4 ++ dr ++ sr1 ++ 1#1 ++ imm5 &&& (15#4 ++ 0#3 ++ 0#3 ++ 1#1 ++ 0#5) : BitVec (4 + 3 + 3 + 1 + 5)) = _
  simp only [BitVec.and_append, BitVec.and_zero]
  rfl

theorem xorReg (dr sr1 sr2 : RegId) : Statement (.xorReg dr sr1 sr2) := by
  revert dr sr1 sr2
  simp only [Statement]
  decide

theorem xorImm (dr sr1 : RegId) (imm5 : BitVec 5) : Statement (.xorImm dr sr1 imm5) := by
  show (9#4 ++ dr ++ sr1 ++ 1#1 ++ imm5 &&& (15#4 ++ 0#3 ++ 0#3 ++ 1#1 ++ 0#5) : BitVec (4 + 3 + 3 + 1 + 5)) = _
  simp only [BitVec.and_append, BitVec.and_zero]
  rfl

theorem notReg (dr sr : RegId) : Statement (.notReg dr sr) := by
  revert dr sr
  simp only [Statement]
  decide

theorem lshf (dr sr : RegId) (amount4 : BitVec 4) : Statement (.lshf dr sr amount4) := by
  show (13#4 ++ dr ++ sr ++ 0#1 ++ 0#1 ++ amount4 &&& (15#4 ++ 0#3 ++ 0#3 ++ 0#1 ++ 1#1 ++ 0#4) : BitVec (4 + 3 + 3 + 1 + 1 + 4)) = _
  simp only [BitVec.and_append, BitVec.and_zero]
  rfl

theorem rshfl (dr sr : RegId) (amount4 : BitVec 4) : Statement (.rshfl dr sr amount4) := by
  show (13#4 ++ dr ++ sr ++ 0#1 ++ 1#1 ++ amount4 &&& (15#4 ++ 0#3 ++ 0#3 ++ 1#1 ++ 1#1 ++ 0#4) : BitVec (4 + 3 + 3 + 1 + 1 + 4)) = _
  simp only [BitVec.and_append, BitVec.and_zero]
  rfl

theorem rshfa (dr sr : RegId) (amount4 : BitVec 4) : Statement (.rshfa dr sr amount4) := by
  show (13#4 ++ dr ++ sr ++ 1#1 ++ 1#1 ++ amount4 &&& (15#4 ++ 0#3 ++ 0#3 ++ 1#1 ++ 1#1 ++ 0#4) : BitVec (4 + 3 + 3 + 1 + 1 + 4)) = _
  simp only [BitVec.and_append, BitVec.and_zero]
  rfl

theorem lea (dr : RegId) (pcOffset9 : BitVec 9) : Statement (.lea dr pcOffset9) := by
  show (14#4 ++ dr ++ pcOffset9 &&& (15#4 ++ 0#3 ++ 0#9) : BitVec (4 + 3 + 9)) = _
  simp only [BitVec.and_append, BitVec.and_zero]
  rfl

theorem ldb (dr baseR : RegId) (boffset6 : BitVec 6) : Statement (.ldb dr baseR boffset6) := by
  show (2#4 ++ dr ++ baseR ++ boffset6 &&& (15#4 ++ 0#3 ++ 0#3 ++ 0#6) : BitVec (4 + 3 + 3 + 6)) = _
  simp only [BitVec.and_append, BitVec.and_zero]
  rfl

theorem ldw (dr baseR : RegId) (offset6 : BitVec 6) : Statement (.ldw dr baseR offset6) := by
  show (6#4 ++ dr ++ baseR ++ offset6 &&& (15#4 ++ 0#3 ++ 0#3 ++ 0#6) : BitVec (4 + 3 + 3 + 6)) = _
  simp only [BitVec.and_append, BitVec.and_zero]
  rfl

theorem stb (sr baseR : RegId) (boffset6 : BitVec 6) : Statement (.stb sr baseR boffset6) := by
  show (3#4 ++ sr ++ baseR ++ boffset6 &&& (15#4 ++ 0#3 ++ 0#3 ++ 0#6) : BitVec (4 + 3 + 3 + 6)) = _
  simp only [BitVec.and_append, BitVec.and_zero]
  rfl

theorem stw (sr baseR : RegId) (offset6 : BitVec 6) : Statement (.stw sr baseR offset6) := by
  show (7#4 ++ sr ++ baseR ++ offset6 &&& (15#4 ++ 0#3 ++ 0#3 ++ 0#6) : BitVec (4 + 3 + 3 + 6)) = _
  simp only [BitVec.and_append, BitVec.and_zero]
  rfl

theorem br (n z p : Bool) (pcOffset9 : BitVec 9) : Statement (.br n z p pcOffset9) := by
  show (0#4 ++ BitVec.ofBool n ++ BitVec.ofBool z ++ BitVec.ofBool p ++ pcOffset9 &&& (15#4 ++ 0#1 ++ 0#1 ++ 0#1 ++ 0#9) : BitVec (4 + 1 + 1 + 1 + 9)) = _
  simp only [BitVec.and_append, BitVec.and_zero]
  rfl

theorem nop : Statement .nop := by
  unfold Statement
  decide

theorem jmp (baseR : RegId) : Statement (.jmp baseR) := by
  revert baseR
  simp only [Statement]
  decide

theorem ret : Statement .ret := by
  unfold Statement
  decide

theorem jsr (pcOffset11 : BitVec 11) : Statement (.jsr pcOffset11) := by
  show (4#4 ++ 1#1 ++ pcOffset11 &&& (15#4 ++ 1#1 ++ 0#11) : BitVec (4 + 1 + 11)) = _
  simp only [BitVec.and_append, BitVec.and_zero]
  rfl

theorem jsrr (baseR : RegId) : Statement (.jsrr baseR) := by
  revert baseR
  simp only [Statement]
  decide

theorem trap (trapvect8 : BitVec 8) : Statement (.trap trapvect8) := by
  revert trapvect8
  simp only [Statement]
  decide

theorem halt : Statement .halt := by
  unfold Statement
  decide

theorem rti : Statement .rti := by
  unfold Statement
  decide

theorem reserved1010 : Statement .reserved1010 := by
  unfold Statement
  decide

theorem reserved1011 : Statement .reserved1011 := by
  unfold Statement
  decide

end Sys2Proof.Laws.EncodeInRow
end

