-- ==== Sys2Proof/Laws/Pipeline.lean ====
section
/-! SUPPORT. One clock cycle: one lemma per field of the next state, one or two lemmas for each stage's next latch, and what
`step` is on each machine. -/

namespace Sys2Proof.Machine

section
variable (P : Params) (s : State)

theorem cycle_pc : (cycle P s).pc = pcNext (cycleLdPc P s) s.pc (cycleNewPc P s) := rfl
theorem cycle_regs : (cycle P s).regs = writeBackRegs (cycleSr s) s.regs := rfl
theorem cycle_cc : (cycle P s).cc = writeBackCC (cycleSr s) s.cc := rfl
theorem cycle_memory : (cycle P s).memory = (cycleMem P s).memory := rfl
@[simp] theorem cycle_cycleCount : (cycle P s).cycleCount = s.cycleCount + 1 := rfl
@[simp] theorem cycle_run : (cycle P s).run = s.run := rfl
@[simp] theorem cycle_engine : (cycle P s).engine = s.engine := rfl
theorem cycle_de : (cycle P s).de = deNext (cycleDe P s).depStall (cycleMem P s).signals.memStall (cycleLdPc P s)
    (cycleMem P s).signals.vMemBrStall (cycleFetch P s).1 (nextSequential s.pc) s.de := rfl
theorem cycle_agex : (cycle P s).agex =
    agexNext P (cycleMem P s).signals.memStall (cycleDe P s).depStall s.de s.regs s.cc s.agex := rfl
theorem cycle_mem : (cycle P s).mem = memNext (cycleMem P s).signals.memStall s.agex s.mem := rfl
theorem cycle_sr : (cycle P s).sr = srNext (cycleMem P s).signals s.mem := rfl
theorem cycle_draws : (cycle P s).draws = if vDcacheEn s.mem then s.draws else s.draws + 1 := rfl

end

/-- The flags after a write-back that happens are those of the value written (43_stage_sr.md R152, R154). -/
theorem writeBackCC_of_load (l : SrLatch) (cc : CC) (h : (srStage l).vSrLdCc = true) :
    writeBackCC (srStage l) cc = ccOf (srRegData l) := by
  simp only [writeBackCC, h, if_true]
  rfl

theorem writeBackCC_of_not (g : SrSignals) (cc : CC) (h : g.vSrLdCc = false) : writeBackCC g cc = cc := by
  simp [writeBackCC, h]

theorem writeBackRegs_of_not (g : SrSignals) (regs : Vector Word 8) (h : g.vSrLdReg = false) :
    writeBackRegs g regs = regs := by
  simp [writeBackRegs, h]

/-- A bubble in SR writes nothing (R153). -/
theorem srStage_of_bubble (l : SrLatch) (h : l.v = false) :
    (srStage l).vSrLdReg = false ∧ (srStage l).vSrLdCc = false := by
  simp [srStage, h]

/-- A bubble in MEM accesses nothing, resolves no transfer, raises no stall and asserts no write (44_stage_mem.md R161, R168,
R169). -/
theorem memStage_of_bubble (P : Params) (c : Nat) (m : Memory) (d : Nat) (l : MemLatch) (h : l.v = false) :
    (memStage P c m d l).memory = m ∧ (memStage P c m d l).signals.memStall = false ∧
      (memStage P c m d l).signals.memPcMux = 0#2 ∧ (memStage P c m d l).signals.vMemBrStall = false ∧
      (memStage P c m d l).signals.vMemLdReg = false ∧ (memStage P c m d l).signals.vMemLdCc = false ∧
      (memStage P c m d l).srNext.v = false := by
  simp [memStage, memSignals, memAccess, vDcacheEn, memPcMux, srNext, h]

/-- MEM stalls exactly when an enabled, valid access meets a data port that is not ready (R165). -/
theorem memStall_iff (P : Params) (c : Nat) (m : Memory) (d : Nat) (l : MemLatch) :
    (memStage P c m d l).signals.memStall = true ↔ vDcacheEn l = true ∧ P.dcacheReady c = false := by
  simp only [memStage, memSignals, memAccess, dcacheAccess]
  cases vDcacheEn l <;> cases P.dcacheReady c <;> simp

/-- The memory after the MEM stage: what it was, or the masked write of an access the port answered (R161 to R163). -/
theorem memStage_memory (P : Params) (c : Nat) (m : Memory) (d : Nat) (l : MemLatch) :
    (memStage P c m d l).memory =
      if vDcacheEn l = true ∧ P.dcacheReady c = true then
        m.writeMasked (wordAddr l.address) (memPayload l) (memWeLo l) (memWeHi l)
      else m := by
  simp only [memStage, memAccess, dcacheAccess]
  cases vDcacheEn l <;> cases P.dcacheReady c <;> simp

/-- The MEM stage keeps the canonical form of memory. -/
theorem wf_memStage (P : Params) (c : Nat) (m : Memory) (d : Nat) (l : MemLatch) (h : m.wf = true) :
    (memStage P c m d l).memory.wf = true := by
  rw [memStage_memory]
  split
  · exact wf_writeMasked m _ _ _ _ h
  · exact h

/-- The SR latch's own slice bit is the bit MEM held (41_control_store.md R124). -/
theorem flagAt_srSlice (cs : MemCS) (f : ControlField) (h : HasFlag srFirst 4 f) (h' : HasFlag memFirst 11 f) :
    flagAt srFirst (srSlice cs) f h = flagAt memFirst cs f h' := by
  revert cs
  cases f <;> first | (exfalso; revert h; decide) | (intro cs; simp [flagAt, srSlice, Bits.bit, Bits.range, ControlField.position, memFirst, srFirst])

/-- The MEM latch's own slice bit is the bit AGEX held (R124). -/
theorem flagAt_memSlice (cs : AgexCS) (f : ControlField) (h : HasFlag memFirst 11 f) (h' : HasFlag agexFirst 20 f) :
    flagAt memFirst (memSlice cs) f h = flagAt agexFirst cs f h' := by
  revert cs
  cases f <;> first | (exfalso; revert h; decide) | (intro cs; simp [flagAt, memSlice, Bits.bit, Bits.range, ControlField.position, memFirst, agexFirst])

theorem memNext_of_stall (l : AgexLatch) (held : MemLatch) : memNext true l held = held := rfl

theorem agexNext_of_stall (P : Params) (d : Bool) (l : DeLatch) (regs : Vector Word 8) (cc : CC) (held : AgexLatch) :
    agexNext P true d l regs cc held = held := rfl

/-- DE's latch is held under either stall of DE (46_stage_decode_fetch.md R214). -/
theorem deNext_of_stall (d m ld br : Bool) (i n : Word) (held : DeLatch) (h : d = true ∨ m = true) :
    deNext d m ld br i n held = held := by
  rcases h with rfl | rfl <;> simp [deNext]

/-- A bubble in DE never stalls (47_hazard_stall.md R233). -/
theorem depStallOf_of_bubble (cw : ControlWord) (i j : RegId) (a : AgexSignals) (m : MemSignals) (r : SrSignals) :
    depStallOf false cw i j a m r = false := rfl

section
variable (s : State)

/-- `step` on each machine and after the end of the run (log 1, log 7). -/
theorem step_of_ended (h : s.run = false) : step s = .refused .runEnded := by
  simp [step, h]

theorem step_of_pipeline (h : s.run = true) (he : s.engine = .pipeline) :
    step s = .next (hostCycle referenceParams s) := by
  simp [step, h, he]

theorem step_of_sequential (h : s.run = true) (he : s.engine = .sequential) : step s = sequentialStep s := by
  simp [step, h, he]

end

end Sys2Proof.Machine
end

