-- ==== Sys2Proof/Tests/Slice0.lean ====
section
/-! SUPPORT. Tests: expected values come from the test vectors T60 to T147 of 95_test_vectors.md (named in each comment) or from
the encodings of 48_isa_operate.md and 49_isa_memory_control.md. The `witness_` theorems show, for each statement with
hypotheses, operands and states that meet them. -/

namespace Sys2Proof.Tests

open Sys2Proof.Machine Sys2Proof.Machine.Bits

/-! ### Well-formedness: an ill-formed term for each check, and the term that has the word instead -/

theorem test_wf_xorImm_of_not : Instr.wellFormed (.xorImm 1 1 0b11111) = false ∧ Instr.wellFormed (.notReg 1 1) = true := by
  decide
theorem test_wf_br_of_nop :
    Instr.wellFormed (.br false false false 0) = false ∧ Instr.wellFormed (.br false false false 1) = true := by decide
theorem test_wf_jmp_of_ret : Instr.wellFormed (.jmp 7) = false ∧ Instr.wellFormed (.jmp 6) = true := by decide
theorem test_wf_trap_of_halt : Instr.wellFormed (.trap 0x25) = false ∧ Instr.wellFormed (.trap 0x24) = true := by decide

/-! ### Decoding: one word of every constructor, bit by bit from the spec's encoding -/

theorem test_decode_add : decodeWord 0b0001_001_010_0_00_011#16 = .addReg 1 2 3 ∧
    decodeWord 0b0001_001_010_1_10000#16 = .addImm 1 2 0b10000 := by decide
theorem test_decode_and : decodeWord 0b0101_111_000_0_00_101#16 = .andReg 7 0 5 ∧
    decodeWord 0b0101_001_010_1_01111#16 = .andImm 1 2 0b01111 := by decide
theorem test_decode_xor : decodeWord 0b1001_001_010_0_00_010#16 = .xorReg 1 2 2 ∧
    decodeWord 0b1001_001_010_1_11110#16 = .xorImm 1 2 0b11110 ∧
    decodeWord 0b1001_001_010_1_11111#16 = .notReg 1 2 := by decide
theorem test_decode_shift : decodeWord 0b1101_001_010_0_0_1111#16 = .lshf 1 2 15 ∧
    decodeWord 0b1101_001_010_0_1_1111#16 = .rshfl 1 2 15 ∧ decodeWord 0b1101_001_010_1_1_1111#16 = .rshfa 1 2 15 := by
  decide
theorem test_decode_lea : decodeWord 0b1110_100_100000001#16 = .lea 4 0b100000001 := by decide
theorem test_decode_load : decodeWord 0b0010_011_100_110000#16 = .ldb 3 4 0b110000 ∧
    decodeWord 0b0110_011_100_000001#16 = .ldw 3 4 1 := by decide
theorem test_decode_store : decodeWord 0b0011_110_001_011111#16 = .stb 6 1 0b011111 ∧
    decodeWord 0b0111_110_001_100000#16 = .stw 6 1 0b100000 := by decide
theorem test_decode_branch : decodeWord 0b0000_1_0_1_011111111#16 = .br true false true 0xFF ∧
    decodeWord 0b0000_0_0_0_000000000#16 = .nop := by decide
theorem test_decode_jump : decodeWord 0b1100_000_011_000000#16 = .jmp 3 ∧
    decodeWord 0b1100_000_111_000000#16 = .ret := by decide
theorem test_decode_call : decodeWord 0b0100_1_10000000001#16 = .jsr 0b10000000001 ∧
    decodeWord 0b0100_0_00_010_000000#16 = .jsrr 2 := by decide
theorem test_decode_trap : decodeWord 0b1111_0000_00110000#16 = .trap 0x30 ∧
    decodeWord 0b1111_0000_00100101#16 = .halt := by decide
theorem test_decode_noFunction : decodeWord 0b1000_000000000000#16 = .rti ∧
    decodeWord 0b1010_000000000000#16 = .reserved1010 ∧ decodeWord 0b1011_000000000000#16 = .reserved1011 := by decide
theorem test_decodeTableWord : decodeTableWord 16 0x1283 = some (.addReg 1 2 3) := by decide
theorem test_decode_truncated : decode [0x83#8] = .error .truncated := by rfl

/-! ### One step of each instruction -/

/-- Flags as the test vectors write them. -/
def ccN : CC := ⟨true, false, false⟩
/-- Z alone. -/
def ccZ : CC := ⟨false, true, false⟩
/-- P alone. -/
def ccP : CC := ⟨false, false, true⟩

/-- A state at 0x3000 with two registers, the flags and one word of memory set. -/
def st (r q : RegId) (v u : Word) (cc : CC) (a w : Word) : State :=
  { ((State.reset.setReg r v).setReg q u) with cc := cc, memory := memWriteWord [] a w }

/-- What one instruction does to a register, the flags and `pc`. -/
def seen (w : Word) (s : State) (r : RegId) : Option (Word × CC × Word) :=
  match exec (decodeWord w) s with
  | .next t => some (t.reg r, t.cc, t.pc)
  | .fault _ => none
  | .refused _ => none

/-- What one instruction does to a word of memory. -/
def stored (w : Word) (s : State) (a : Word) : Option (Word × CC) :=
  match exec (decodeWord w) s with
  | .next t => some (memReadWord t.memory a, t.cc)
  | .fault _ => none
  | .refused _ => none

/-- T80. -/
theorem test_addReg : seen 0x1283#16 (st 2 3 0x7FFF 0x0001 ccZ 0 0) 1 = some (0x8000, ccN, 0x3002) := by decide
/-- T81. -/
theorem test_addReg_wrap : seen 0x1283#16 (st 2 3 0xFFFF 0x0001 ccN 0 0) 1 = some (0x0000, ccZ, 0x3002) := by decide
/-- T86. -/
theorem test_addImm : seen 0x12BF#16 (st 2 3 0x0000 0 ccZ 0 0) 1 = some (0xFFFF, ccN, 0x3002) := by decide
/-- T88. -/
theorem test_andReg : seen 0x5283#16 (st 2 3 0xFF0F 0x8F00 ccZ 0 0) 1 = some (0x8F00, ccN, 0x3002) := by decide
/-- T91. -/
theorem test_andImm : seen 0x52AF#16 (st 2 3 0xABCD 0 ccZ 0 0) 1 = some (0x000D, ccP, 0x3002) := by decide
/-- T92. -/
theorem test_xorReg : seen 0x9282#16 (st 1 2 0x0005 0xBEEF ccP 0 0) 1 = some (0x0000, ccZ, 0x3002) := by decide
/-- T94. -/
theorem test_xorImm : seen 0x92B0#16 (st 2 3 0x00FF 0 ccZ 0 0) 1 = some (0xFF0F, ccN, 0x3002) := by decide
/-- T95. -/
theorem test_notReg : seen 0x92BF#16 (st 1 2 0x0007 0xFFFF ccP 0 0) 1 = some (0x0000, ccZ, 0x3002) := by decide
/-- T98. -/
theorem test_lshf : seen 0xD281#16 (st 2 3 0x8001 0 ccZ 0 0) 1 = some (0x0002, ccP, 0x3002) := by decide
/-- T106. -/
theorem test_lshf_type10 : seen 0xD2A4#16 (st 2 3 0x0F0F 0 ccZ 0 0) 1 = some (0xF0F0, ccN, 0x3002) := by decide
/-- T101. -/
theorem test_rshfl : seen 0xD29F#16 (st 2 3 0xFFFF 0 ccZ 0 0) 1 = some (0x0001, ccP, 0x3002) := by decide
/-- T105. -/
theorem test_rshfa : seen 0xD2B4#16 (st 2 3 0xF00F 0 ccZ 0 0) 1 = some (0xFF00, ccN, 0x3002) := by decide
/-- T108. -/
theorem test_lea : seen 0xE1FF#16 (st 2 3 0 0 ccN 0 0) 0 = some (0x3000, ccN, 0x3002) := by decide
/-- T115. -/
theorem test_ldb_odd : seen 0x205F#16 (st 1 2 0x4000 0 ccZ 0x401E 0x8001) 0 = some (0xFF80, ccN, 0x3002) := by decide
/-- T112 (even byte 80, odd byte 7F of the word 7F80). -/
theorem test_ldb : seen 0x2041#16 (st 1 2 0x4000 0 ccZ 0x4000 0x7F80) 0 = some (0x007F, ccP, 0x3002) := by decide
/-- T121. -/
theorem test_ldw_wrap : seen 0x6041#16 (st 1 2 0xFFFE 0 ccZ 0x0000 0x0001) 0 = some (0x0001, ccP, 0x3002) := by decide
/-- T120. -/
theorem test_ldw_odd : seen 0x6040#16 (st 1 2 0x4001 0 ccZ 0x4000 0xBEEF) 0 = some (0xBEEF, ccN, 0x3002) := by decide
/-- T123. -/
theorem test_stb : stored 0x3441#16 (st 1 2 0x4000 0xABCD ccP 0x4000 0x1234) 0x4000 = some (0xCD34, ccP) := by decide
/-- T126. -/
theorem test_stw_odd : stored 0x7440#16 (st 1 2 0x4001 0xABCD ccZ 0x4002 0x5678) 0x4000 = some (0xABCD, ccZ) := by decide
/-- T128. -/
theorem test_stw : stored 0x7FBF#16 (st 6 7 0x4002 0xBEEF ccP 0x4000 0) 0x4000 = some (0xBEEF, ccP) := by decide
/-- T130, mask 010 under flags 010, taken. -/
theorem test_br_taken : seen 0x0401#16 (st 1 2 0 0 ccZ 0 0) 1 = some (0, ccZ, 0x3004) := by decide
/-- T130, mask 101 under flags 010, not taken. -/
theorem test_br_not_taken : seen 0x0A01#16 (st 1 2 0 0 ccZ 0 0) 1 = some (0, ccZ, 0x3002) := by decide
/-- R276. -/
theorem test_nop : seen 0x0000#16 (st 1 2 5 6 ccP 0 0) 1 = some (5, ccP, 0x3002) := by decide
/-- T135. -/
theorem test_jmp_odd : seen 0xC0C0#16 (st 3 7 0x3005 6 ccP 0 0) 7 = some (6, ccP, 0x3005) := by decide
/-- R278. -/
theorem test_ret : seen 0xC1C0#16 (st 3 7 0x3005 0x3002 ccP 0 0) 3 = some (0x3005, ccP, 0x3002) := by decide
/-- T138. -/
theorem test_jsr : seen 0x4C00#16 (st 3 7 0 0 ccP 0 0) 7 = some (0x3002, ccP, 0x2802) := by decide
/-- T140. -/
theorem test_jsrr_r7 : seen 0x41C0#16 (st 3 7 0 0x3006 ccP 0 0) 7 = some (0x3002, ccP, 0x3006) := by decide
/-- T144. -/
theorem test_trap : seen 0xFF30#16 (st 3 7 0 0 ccP 0x0060 0x3004) 7 = some (0x3002, ccP, 0x3004) := by decide
/-- R283 with a service routine behind the vector. -/
theorem test_halt : seen 0xF025#16 (st 3 7 0 0 ccP 0x004A 0x0400) 7 = some (0x3002, ccP, 0x0400) := by decide
/-- T146. -/
theorem test_rti : seen 0x8FFF#16 (st 1 7 5 0 ccN 0 0) 1 = some (5, ccN, 0x3002) := by decide
/-- T146. -/
theorem test_reserved1010 : seen 0xAFFF#16 (st 1 7 5 0 ccN 0 0) 1 = some (5, ccN, 0x3002) := by decide
/-- T146. -/
theorem test_reserved1011 : seen 0xB123#16 (st 1 7 5 0 ccN 0 0) 1 = some (5, ccN, 0x3002) := by decide

/-- `withFetchWord` on reset: the very next step is the ADD of the word 0x1265 and moves on to 0x3002. -/
theorem test_withFetchWord : (match step (State.reset.withFetchWord 16 0x1265) with
    | .next t => some (t.reg 1, t.cc, t.pc)
    | .fault _ => none
    | .refused _ => none) = some (0x0005, ccP, 0x3002) := by decide

/-! ### Pipeline states -/

/-- Ports that answer in the given way, over `UCODE_REF`. -/
def ports (i d : Bool) : Params := { ucode := ucodeRef, icacheReady := fun _ => i, dcacheReady := fun _ => d }

/-- A valid DE latch at 0x3006. -/
def inDe (w : Word) : DeLatch := ⟨true, w, 0x3008⟩

/-- A valid AGEX latch under `UCODE_REF`. -/
def inAgex (w sr1 sr2 : Word) (cc : CC) : AgexLatch :=
  ⟨true, w, 0x3006, sr1, sr2, cc, dridOf (ucodeRef (controlRow w)) w, agexSlice (ucodeRef (controlRow w))⟩

/-- A valid MEM latch under `UCODE_REF`. -/
def inMem (w result address : Word) (cc : CC) : MemLatch :=
  ⟨true, w, 0x3004, result, address, cc, dridOf (ucodeRef (controlRow w)) w,
    memSlice (agexSlice (ucodeRef (controlRow w)))⟩

/-- A valid SR latch under `UCODE_REF`. -/
def inSr (w result : Word) : SrLatch :=
  ⟨true, w, 0x3002, result, 0, 0, dridOf (ucodeRef (controlRow w)) w,
    srSlice (memSlice (agexSlice (ucodeRef (controlRow w))))⟩

/-- The state of `State.reset` with given latches. -/
def pipe (de : DeLatch) (agex : AgexLatch) (mem : MemLatch) (sr : SrLatch) : State :=
  { State.reset with de := de, agex := agex, mem := mem, sr := sr }

/-- A program of one word at 0x3000. -/
def one (w : Word) : State := { State.reset with memory := memWriteWord [] 0x3000 w }

/-- The worked examples (1) to (4) of 45_stage_agex.md R193, but for the unused address of (1), where the spec contradicts
itself (log 32): R184 with the ADD row of 41_control_store.md R131 gives 0x0106. -/
theorem test_agex_examples :
    (let l := inAgex 0x1283 0x0005 0x0007 ccZ;
      agexOperandB l = 0x0007 ∧ agexAluOut l = 0x000C ∧ agexResult l = 0x000C ∧ agexAddress l = 0x0106 ∧
        agexSignals l = ⟨true, true, false, 1⟩) ∧
    (let l := { inAgex 0x0403 0 0 ccZ with npc := 0x3004 };
      agexAddr1 l = 0x3004 ∧ agexAddr2Raw l = 0x0003 ∧ agexAddr2 l = 0x0006 ∧ agexAddress l = 0x300A ∧
        (agexSignals l).vAgexBrStall = true) ∧
    (let l := inAgex 0x7FBF 0x4000 0xBEEF ccZ;
      agexAddr2Raw l = 0xFFFF ∧ agexAddr2 l = 0xFFFE ∧ agexAddress l = 0x3FFE ∧ agexResult l = 0xBEEF) ∧
    agexAddress (inAgex 0xF025 0 0 ccZ) = 0x004A := by decide

/-- T70: HALT ends after cycle 4 with R7 = 3002. -/
theorem test_pipeline_halt : (hostRun (ports true true) 10 (one 0xF025)).run = false ∧
    (hostRun (ports true true) 10 (one 0xF025)).reg 7 = 0x3002 ∧
    (hostRun (ports true true) 10 (one 0xF025)).cycleCount = 5 := by decide

/-- T67: a taken transfer loads `pc` with its target and sends a bubble into DE. -/
theorem test_pipeline_taken :
    (cycle (ports true true) (pipe .zero .zero (inMem 0x0403 0 0x3010 ccZ) .zero)).pc = 0x3010 ∧
    (cycle (ports true true) (pipe .zero .zero (inMem 0x0403 0 0x3010 ccZ) .zero)).de.v = false := by decide

/-- T69: the redirect is lost when the instruction port is not ready. -/
theorem test_pipeline_lost_redirect :
    (cycle (ports false true) (pipe .zero .zero (inMem 0x0403 0 0x3010 ccZ) .zero)).pc = 0x3000 := by decide

/-! ### Witnesses: every hypothesis of a statement is met by something -/

theorem witness_roundTrip : Instr.wellFormed (.xorImm 7 7 30) = true ∧ Instr.wellFormed (.jmp 6) = true ∧
    Instr.wellFormed (.trap 0xFF) = true ∧ Instr.wellFormed (.br false false false 0x1FF) = true := by decide

theorem witness_tableRow : 0x903F#16 &&& (tableRow (.xorImm 0 0 0)).1 = (tableRow (.xorImm 0 0 0)).2 ∧
    0x903F#16 &&& (tableRow (.notReg 0 0)).1 = (tableRow (.notReg 0 0)).2 := by decide

theorem witness_ignoredBits :
    (0x1283#16 ^^^ 0x129B#16) &&& ~~~(ignoredBits (decodeWord 0x1283)) = 0#16 ∧ 0x1283#16 ≠ 0x129B#16 := by decide

/-- A state of the sequential machine with ADD R1, R2, R3 at `pc`, even and odd. -/
theorem witness_stepRuns :
    (∃ s : State, s.run = true ∧ s.engine = .sequential ∧ s.pc ≠ 0x0000#16 ∧
      s.memory.byte (s.pc &&& 0xFFFE#16) = 0x83 ∧ s.memory.byte (s.pc ||| 0x0001#16) = 0x12 ∧ s.pc = 0x3000#16) ∧
    (∃ s : State, s.run = true ∧ s.engine = .sequential ∧ s.pc ≠ 0x0000#16 ∧
      s.memory.byte (s.pc &&& 0xFFFE#16) = 0x83 ∧ s.memory.byte (s.pc ||| 0x0001#16) = 0x12 ∧ s.pc = 0xFFFF#16) ∧
    decode [0x83#8, 0x12#8] = .ok (.addReg 1 2 3, []) :=
  ⟨⟨{ one 0x1283 with engine := .sequential }, by decide⟩,
    ⟨{ State.reset with pc := 0xFFFF, memory := memWriteWord [] 0xFFFE 0x1283, engine := .sequential }, by decide⟩, rfl⟩

theorem witness_hostStep : (one 0x1283).run = true ∧ (one 0x1283).engine = .pipeline ∧ (one 0x1283).pc ≠ 0x0000#16 ∧
    { one 0x1283 with pc := 0x0000 }.pc = 0x0000#16 := by decide

theorem witness_sequentialStop :
    ∃ s : State, s.run = true ∧ s.engine = .sequential ∧ s.pc = 0x0000#16 :=
  ⟨{ State.reset with pc := 0x0000, engine := .sequential }, by decide⟩

theorem witness_runEnded : State.reset.run = true ∧ State.reset.stop.run = false := by decide

/-- The clauses of HostStopsOneCycleAfterZero: no zero in the budget, zero at the start, and zero after four cycles. -/
theorem witness_hostStops : (∀ k < 4, (cycles (ports true true) k (one 0xF025)).pc ≠ 0x0000#16) ∧
    (cycles (ports true true) 4 (one 0xF025)).pc = 0x0000#16 ∧
    (cycles (ports true true) 0 { one 0xF025 with pc := 0x0000 }).pc = 0x0000#16 := by decide

theorem witness_invariant : ∃ s t : State, s.Inv ∧ step s = .next t :=
  ⟨State.reset, _, by unfold State.Inv; decide, rfl⟩

/-- A transfer in AGEX with a bubble behind it, and one in MEM. -/
theorem witness_noYounger : NoYoungerBehindTransfer (pipe .zero (inAgex 0x0403 0 0 ccZ) .zero .zero) ∧
    NoYoungerBehindTransfer (pipe .zero .zero (inMem 0xC0C0 0 0x4000 ccZ) .zero) ∧
    (inAgex 0x0403 0 0 ccZ).flag .brStall = true ∧ (inMem 0xC0C0 0 0x4000 ccZ).flag .brStall = true := by
  unfold NoYoungerBehindTransfer
  decide

/-- A branch in AGEX behind an instruction that writes no flag, and a branch in MEM. -/
theorem witness_branchSnapshots : BranchSnapshotsLive (pipe .zero (inAgex 0x0403 0 0 ccZ) (inMem 0xE002 0 0x3008 ccZ) .zero) ∧
    BranchSnapshotsLive (pipe .zero .zero (inMem 0x0403 0 0x3010 ccZ) .zero) ∧
    (inMem 0x0403 0 0x3010 ccZ).flag .brOp = true := by
  unfold BranchSnapshotsLive
  decide

/-- Both enables of SR: an ADD that writes both, a LEA that writes a register only, a bubble. -/
theorem witness_writeBack : (inSr 0x1283 5).v = true ∧ (inSr 0x1283 5).cs.getLsbD 2 = true ∧
    (inSr 0x1283 5).cs.getLsbD 3 = true ∧ (inSr 0xE002 5).cs.getLsbD 3 = false ∧ SrLatch.zero.v = false := by decide

/-- The instruction port is not ready in cycles 0 and 13 and ready in cycles 1 and 12. -/
theorem witness_instructionPort : referenceParams.icacheReady 0 = false ∧ referenceParams.icacheReady 1 = true ∧
    referenceParams.icacheReady 12 = true ∧ referenceParams.icacheReady 13 = false := by decide

/-- A byte load and a word load whose access the data port answers, and the cycles in which it does not by the reference
predicate. -/
theorem witness_loadPath : (inMem 0x2040 0 0xFFFF ccZ).v = true ∧ (inMem 0x2040 0 0xFFFF ccZ).cs.getLsbD 4 = true ∧
    (inMem 0x2040 0 0xFFFF ccZ).cs.getLsbD 6 = false ∧ (inMem 0x6040 0 0 ccZ).cs.getLsbD 4 = true ∧
    (inMem 0x6040 0 0 ccZ).cs.getLsbD 6 = true ∧ (ports true true).dcacheReady 0 = true ∧
    referenceParams.dcacheReady 0 = false ∧ referenceParams.dcacheReady 8 = true ∧
    referenceParams.dcacheReady 9 = false := by decide

/-- The three values of `mem_pc_mux`: an ADD, a branch taken and one not, a jump, a trap. -/
theorem witness_pcMux : memPcMux (inMem 0x1283 0 0 ccZ) = 0#2 ∧ memPcMux (inMem 0x0403 0 0 ccZ) = 1#2 ∧
    memPcMux (inMem 0x0403 0 0 ccP) = 0#2 ∧ memPcMux (inMem 0xC0C0 0 0 ccZ) = 1#2 ∧
    memPcMux (inMem 0xF025 0 0x4A ccZ) = 2#2 := by decide

/-- `pc` held; loaded with the next address, a target, a trap word. -/
theorem witness_pcUpdate :
    (signals (ports false true) State.reset).ldPc = false ∧
    ((signals (ports true true) State.reset).ldPc = true ∧ (signals (ports true true) State.reset).mem.memPcMux = 0#2) ∧
    (let s := pipe .zero .zero (inMem 0xC0C0 0 0x4000 ccZ) .zero;
      (signals (ports true true) s).ldPc = true ∧ (signals (ports true true) s).mem.memPcMux = 1#2) ∧
    (let s := pipe .zero .zero (inMem 0xF025 0 0x004A ccZ) .zero;
      (signals (ports true true) s).ldPc = true ∧ (signals (ports true true) s).mem.memPcMux = 2#2) := by decide

/-- The rows of the stall table, each met by a state: memory stall, dependency stall, branch stall in DE and in AGEX, a branch
not taken, a taken one with and without the instruction port, the instruction port alone, no stall. -/
theorem witness_stallTable :
    (signals (ports true false) (pipe (inDe 0x1283) .zero (inMem 0x6040 0 0x4000 ccZ) .zero)).mem.memStall = true ∧
    (signals (ports true true) (pipe (inDe 0x1283) (inAgex 0x1483 0 0 ccZ) .zero .zero)).de.depStall = true ∧
    (signals (ports true true) (pipe (inDe 0xC0C0) .zero .zero .zero)).de.vDeBrStall = true ∧
    (signals (ports true true) (pipe .zero (inAgex 0x0403 0 0 ccZ) .zero .zero)).agex.vAgexBrStall = true ∧
    (let g := (signals (ports true true) (pipe .zero .zero (inMem 0x0403 0 0x3010 ccP) .zero)).mem;
      g.vMemBrStall = true ∧ g.memPcMux = 0#2) ∧
    (let g := (signals (ports true true) (pipe .zero .zero (inMem 0x0403 0 0x3010 ccZ) .zero));
      g.mem.vMemBrStall = true ∧ g.mem.memPcMux = 1#2 ∧ g.icacheR = true) ∧
    (let g := (signals (ports false true) (pipe .zero .zero (inMem 0x0403 0 0x3010 ccZ) .zero));
      g.mem.vMemBrStall = true ∧ g.mem.memPcMux = 1#2 ∧ g.icacheR = false) ∧
    (let g := (signals (ports false true) (pipe (inDe 0x1283) .zero .zero .zero));
      g.mem.vMemBrStall = false ∧ g.de.depStall = false ∧ g.icacheR = false) ∧
    (signals (ports true true) (pipe (inDe 0x1283) .zero .zero .zero)).ldPc = true := by decide

/-- Every choice of the AGEX multiplexers that AgexAddressSum and AgexResultValue distinguish: an address from SR1 and from NPC,
a trap vector, each ALU function, each kind of shift. -/
theorem witness_agexMuxes : (inAgex 0x2041 0 0 ccZ).cs.getLsbD 0 = true ∧ (inAgex 0x0403 0 0 ccZ).cs.getLsbD 0 = false ∧
    (inAgex 0x0403 0 0 ccZ).cs.getLsbD 4 = true ∧ (inAgex 0xF025 0 0 ccZ).cs.getLsbD 4 = false ∧
    (inAgex 0x1283 0 0 ccZ).pair .aluK = 0#2 ∧ (inAgex 0x5283 0 0 ccZ).pair .aluK = 1#2 ∧
    (inAgex 0x9283 0 0 ccZ).pair .aluK = 2#2 ∧ (inAgex 0x3441 0 0 ccZ).pair .aluK = 3#2 ∧
    (inAgex 0x3441 0 0 ccZ).cs.getLsbD 8 = true ∧ (inAgex 0xD28F 0 0 ccZ).cs.getLsbD 8 = false ∧
    (inAgex 0xD28F 0 0 ccZ).ir.getLsbD 4 = false ∧ (inAgex 0xD29F 0 0 ccZ).ir.extractLsb' 4 2 = 1#2 ∧
    (inAgex 0xD2BF 0 0 ccZ).ir.extractLsb' 4 2 = 3#2 := by decide

/-- AGEX advances, sends a bubble, holds. -/
theorem witness_agexLatch :
    (signals (ports true true) (pipe (inDe 0x1283) .zero .zero .zero)).mem.memStall = false ∧
    (signals (ports true false) (pipe (inDe 0x1283) .zero (inMem 0x6040 0 0x4000 ccZ) .zero)).mem.memStall = true ∧
    (let g := signals (ports true true) (pipe (inDe 0x1283) (inAgex 0x1483 0 0 ccZ) .zero .zero);
      g.de.depStall = true ∧ g.mem.memStall = false) := by decide

theorem witness_takenTransfer :
    let s := pipe .zero .zero (inMem 0xC0C0 0 0x4000 ccZ) .zero
    NoYoungerBehindTransfer s ∧ (signals (ports true true) s).mem.vMemBrStall = true ∧
      (signals (ports true true) s).mem.memPcMux ≠ 0#2 ∧ (signals (ports true true) s).mem.memStall = false ∧
      (ports true true).icacheReady s.cycleCount = true := by
  unfold NoYoungerBehindTransfer
  decide

theorem witness_lostRedirect :
    let s := pipe .zero .zero (inMem 0xC0C0 0 0x4000 ccZ) .zero
    NoYoungerBehindTransfer s ∧ redirectLost (ports false true) s = true := by
  unfold NoYoungerBehindTransfer
  decide

theorem witness_transferBubbles :
    let s := pipe (inDe 0x0403) .zero .zero .zero
    s.de.v = true ∧ ((ports true true).ucode (controlRow s.de.ir)).getLsbD 15 = true ∧ s.agex.v = false ∧
      s.mem.v = false ∧ (signals (ports true true) s).de.depStall = false ∧
      (ports true true).dcacheReady (s.cycleCount + 2) = true := by decide

/-- A branch leaves DE (BR_OP), and an ADD of two registers (SR1_NEEDED, SR2_NEEDED), with an older ADD of another register in
AGEX. -/
theorem witness_neededOperands :
    (let s := pipe (inDe 0x1283) (inAgex 0x1A83 0 0 ccZ) .zero .zero;
      (signals (ports true true) s).mem.memStall = false ∧ (cycle (ports true true) s).agex.v = true ∧
        (ucodeRef (controlRow s.de.ir)).getLsbD 0 = true ∧ (ucodeRef (controlRow s.de.ir)).getLsbD 1 = true) ∧
    (let s := pipe (inDe 0x0403) .zero .zero .zero;
      (signals (ports true true) s).mem.memStall = false ∧ (cycle (ports true true) s).agex.v = true ∧
        (ucodeRef (controlRow s.de.ir)).getLsbD 12 = true) := by decide

/-- Each dependency and each producer of AdjacentDependencyStallsThreeCycles: SR1 behind an ADD, SR2 behind a LEA, a branch
behind an LDB, SR1 behind an LDW (both answered), a store's SR2 behind a JSR. -/
theorem witness_adjacentDependency :
    (let s := pipe (inDe 0x1283) (inAgex 0x1483 5 7 ccZ) .zero .zero;
      flagAt 0 (ucodeRef (controlRow s.de.ir)) .sr1Needed = true ∧ s.agex.flag .ldReg = true ∧
        s.agex.drid = sr1Id s.de.ir ∧ s.agex.pair .drValueMux = 3#2 ∧ s.agex.flag .dcacheEn = false) ∧
    (let s := pipe (inDe 0x1283) (inAgex 0xE602 0 0 ccZ) .zero .zero;
      flagAt 0 (ucodeRef (controlRow s.de.ir)) .sr2Needed = true ∧ s.agex.flag .ldReg = true ∧
        s.agex.drid = sr2Id s.de.ir ∧ s.agex.pair .drValueMux = 0#2) ∧
    (let s := pipe (inDe 0x0403) (inAgex 0x2041 0x4000 0 ccZ) .zero .zero;
      flagAt 0 (ucodeRef (controlRow s.de.ir)) .brOp = true ∧ s.agex.flag .ldCc = true ∧
        s.agex.pair .drValueMux = 1#2 ∧ s.agex.flag .dcacheEn = true ∧ s.agex.flag .dataSize = false ∧
        (ports true true).dcacheReady (s.cycleCount + 1) = true) ∧
    (let s := pipe (inDe 0x1283) (inAgex 0x6441 0x4000 0 ccZ) .zero .zero;
      s.agex.drid = sr1Id s.de.ir ∧ s.agex.pair .drValueMux = 1#2 ∧ s.agex.flag .dcacheEn = true ∧
        s.agex.flag .dataSize = true) ∧
    (let s := pipe (inDe 0x7E40) (inAgex 0x4802 0 0 ccZ) .zero .zero;
      flagAt 0 (ucodeRef (controlRow s.de.ir)) .sr2Needed = true ∧ s.agex.flag .ldReg = true ∧
        s.agex.drid = sr2Id s.de.ir ∧ s.agex.pair .drValueMux = 2#2) ∧
    (let s := pipe (inDe 0x1283) (inAgex 0x1483 5 7 ccZ) .zero .zero;
      s.de.v = true ∧ s.agex.v = true ∧ s.mem.v = false ∧ s.sr.v = false) := by decide

theorem witness_drained : Drained State.reset ∧
    Drained { State.reset with agex := { inAgex 0x1283 1 1 ccZ with v := false } } := by
  unfold Drained
  decide

theorem witness_fieldIsolation : ControlField.isPair .aluK = true ∧ ControlField.isPair .ldCc = false := by decide

theorem witness_slices : HasFlag agexFirst 20 .addr1Mux ∧ HasFlag memFirst 11 .brOp ∧ HasFlag srFirst 4 .ldCc ∧
    HasFlag 0 23 .ldCc ∧ HasFlag 0 23 .sr1Needed ∧ HasPair agexFirst 20 .addr2Mux ∧ HasPair memFirst 11 .drValueMux ∧
    HasPair srFirst 4 .drValueMux ∧ HasPair 0 23 .drValueMux := by decide

/-- Row 60 (TRAP) needs no register, row 56 (LEA) uses its address, row 5 (ADD immediate) its result. -/
theorem witness_unneeded :
    (∃ l : AgexLatch, l.cs = agexSlice (ucodeRef 56)) ∧ wfSr1 (ucodeRef 56) = true ∧
      flagAt 0 (ucodeRef 56) .sr1Needed = false ∧ addrUsed (ucodeRef 56) = true ∧ wfSr2 (ucodeRef 5) = true ∧
      flagAt 0 (ucodeRef 5) .sr2Needed = false ∧ resultUsed (ucodeRef 5) = true :=
  ⟨⟨{ AgexLatch.zero with cs := agexSlice (ucodeRef 56) }, rfl⟩, by decide⟩

theorem witness_unneeded_sr1_result : ∃ cw : ControlWord, wfSr1 cw = true ∧ flagAt 0 cw .sr1Needed = false ∧
    resultUsed cw = true :=
  ⟨rowString 0b010_000000111_0000_000_1110#23, by decide⟩

/-- The whole container, one bit, the widest container, and the example of R104. -/
theorem witness_range : RangeOk 16 15 0 ∧ RangeOk 16 15 15 ∧ RangeOk 1 0 0 ∧ RangeOk 64 63 0 ∧ RangeOk 16 7 4 ∧
    IndexOk 16 3 ∧ IndexOk 16 8 := by decide

theorem witness_extension : IndexOk 16 0 ∧ IndexOk 16 15 ∧ IndexOk 1 0 ∧ IndexOk 64 63 ∧
    signExtendFrom 0x01FF#16 8 = 0xFFFF#16 := by decide

/-- What R100, R103, R105, R106 and R108 reject: widths 0 and 65, a range upside down or beyond the width, a position or an
index at the width, and a control field in a slice that does not carry it. -/
theorem test_container_bounds : ¬WidthOk 0 ∧ ¬WidthOk 65 ∧ ¬RangeOk 16 3 4 ∧ ¬RangeOk 16 16 0 ∧ ¬RangeOk 65 8 0 ∧
    ¬IndexOk 16 16 ∧ ¬IndexOk 65 3 ∧ ¬HasFlag agexFirst 20 .drMux ∧ ¬HasPair 0 23 .ldCc ∧ ¬HasFlag 0 23 .aluK := by
  decide

/-- The examples of R101 and R103. -/
theorem test_container_examples : make 9 0x3FF = 0x1FF#9 ∧ range 0x1845#16 15 11 = 0b00011#5 ∧
    range 0x1845#16 8 6 = 0b001#3 ∧ bit 0x8000#16 15 = true ∧ zeroExtendFrom 0xFFFF#16 8 = 0x01FF#16 := by decide

theorem witness_canonical : Memory.wf [(0x3000, 1#8), (0xFFFF, 2#8)] = true ∧ Memory.wf [(0x3000, 0#8)] = false := by decide

/-- A file that ends at the top of memory, with and without a word. -/
theorem witness_loader : (32767#15).toNat + [0xF025#16].length ≤ 32768 ∧
    (0#15).toNat + ([] : List Word).length ≤ 32768 := by decide

/-- A branch taken under each flag, and one that asks for no flag. -/
theorem witness_branch : branchCond true false false ccN = true ∧ branchCond false true false ccZ = true ∧
    branchCond false false true ccP = true ∧ branchCond false false false ccP = false := by decide

theorem witness_noFunction : ∃ i : Instr, i = .rti ∨ i = .reserved1010 ∨ i = .reserved1011 := ⟨.rti, .inl rfl⟩

theorem witness_operateLaws : (1#3 ≠ 2#3) ∧ (State.reset.reg 2).msb = false := by decide

/-- Each clause of LoadAfterStore, through two base registers: the same word at an odd address, its low and its high byte, the
same byte, and the word around an odd and an even byte. -/
theorem witness_loadAfterStore :
    (let s := st 1 2 0x4000 0x4001 ccZ 0 0;
      wordAddress (s.reg 2) 0 &&& 0xFFFE#16 = wordAddress (s.reg 1) 0 &&& 0xFFFE#16 ∧
        byteAddress (s.reg 2) 0x3F = wordAddress (s.reg 1) 0 &&& 0xFFFE#16 ∧
        byteAddress (s.reg 2) 0 = wordAddress (s.reg 1) 0 ||| 0x0001#16 ∧
        byteAddress (s.reg 2) 0x3F = byteAddress (s.reg 1) 0 ∧
        wordAddress (s.reg 2) 0 &&& 0xFFFE#16 = byteAddress (s.reg 1) 0 &&& 0xFFFE#16 ∧
        (byteAddress (s.reg 1) 0).getLsbD 0 = false) ∧
    (let s := st 1 2 0xFFFF 0xFFFE ccZ 0 0;
      wordAddress (s.reg 2) 0 &&& 0xFFFE#16 = byteAddress (s.reg 1) 0 &&& 0xFFFE#16 ∧
        (byteAddress (s.reg 1) 0).getLsbD 0 = true) := by decide

/-- A drained pipeline whose ports answer in the cycles asked for, before an ADD and before a HALT. -/
theorem witness_retires : (ports true true).ucode = ucodeRef ∧ Drained (one 0xF025) ∧
    (ports true true).icacheReady (one 0xF025).cycleCount = true ∧
    (∃ t, exec (fetchInstr (one 0xF025)) (one 0xF025) = .next t) ∧ isTransfer (fetchInstr (one 0xF025)) = true ∧
    (∃ t, exec (fetchInstr (one 0x1283)) (one 0x1283) = .next t) ∧ isTransfer (fetchInstr (one 0x1283)) = false :=
  ⟨rfl, by unfold Drained; decide, rfl, ⟨_, rfl⟩, by decide, ⟨_, rfl⟩, by decide +kernel⟩

/-- The premises of the spec's main property, met by the program HALT (T70) with `n = 3`. -/
theorem witness_mainProperty :
    let P := ports true true
    let s := one 0xF025
    P.ucode = ucodeRef ∧ s.run = true ∧ (∀ k ≤ 3, (cycles P k s).pc ≠ 0x0000#16) ∧
      (cycles P 4 s).pc = 0x0000#16 ∧ (signals P (cycles P 3 s)).mem.memPcMux ≠ 0#2 ∧
      ∀ k ≤ 3, redirectLost P (cycles P k s) = false ∧ staleFetch P (cycles P k s) = false := by
  intro P s
  refine ⟨rfl, ?_⟩
  decide

end Sys2Proof.Tests
end

section
/-! The instruction port (20_memory.md R58): what it answers, and why nothing it answers reaches memory in a cycle. -/

namespace Sys2Proof.Machine

theorem icacheAccess_of_ready {P : Params} {c : Nat} (h : P.icacheReady c = true) (m : Memory) (a : Word) :
    icacheAccess P c m a = (m.word (wordAddr a), true) := by
  simp [icacheAccess, h]

theorem icacheAccess_of_not_ready {P : Params} {c : Nat} (h : P.icacheReady c = false) (m : Memory) (a : Word) :
    icacheAccess P c m a = (0xFEED#16, false) := by
  simp [icacheAccess, h]

@[simp] theorem icacheAccess_ready (P : Params) (c : Nat) (m : Memory) (a : Word) :
    (icacheAccess P c m a).2 = P.icacheReady c := by
  cases h : P.icacheReady c with
  | true => rw [icacheAccess_of_ready h]
  | false => rw [icacheAccess_of_not_ready h]

/-- `a >> 1` as a number (R51). -/
theorem wordAddr_toNat (a : Word) : (wordAddr a).toNat = a.toNat / 2 := by
  have hlow := lowAddr_wordAddr a
  unfold lowAddr at hlow
  omega

/-- A cycle's memory depends on the MEM latch, the cycle count, the memory and the data port alone (44_stage_mem.md R161 to
R163): neither `pc` nor the instruction port occurs on the right. -/
theorem cycle_memory_eq_dataPort (P : Params) (s : State) : (cycle P s).memory =
    if vDcacheEn s.mem = true ∧ P.dcacheReady s.cycleCount = true then
      s.memory.writeMasked (wordAddr s.mem.address) (memPayload s.mem) (memWeLo s.mem) (memWeHi s.mem)
    else s.memory :=
  memStage_memory P s.cycleCount s.memory s.draws s.mem

theorem cycle_memory_of_pc (P : Params) (s : State) (pc : Word) :
    (cycle P { s with pc := pc }).memory = (cycle P s).memory := by
  rw [cycle_memory_eq_dataPort, cycle_memory_eq_dataPort]

theorem cycle_memory_of_icacheReady (P : Params) (s : State) (ready : Nat → Bool) :
    (cycle { P with icacheReady := ready } s).memory = (cycle P s).memory := by
  rw [cycle_memory_eq_dataPort, cycle_memory_eq_dataPort]

/-- FETCH reads the memory the data access of the same cycle left (20_memory.md R66). -/
theorem cycleFetch_eq (P : Params) (s : State) :
    cycleFetch P s = icacheAccess P s.cycleCount (cycle P s).memory s.pc := by
  rw [cycle_memory]
  rfl

theorem signals_icacheR (P : Params) (s : State) : (signals P s).icacheR = P.icacheReady s.cycleCount :=
  icacheAccess_ready P s.cycleCount (cycleMem P s).memory s.pc

/-- The reference predicate of R58. -/
theorem referenceParams_icacheReady (c : Nat) : referenceParams.icacheReady c = true ↔ c % 13 ≠ 0 := by
  simp [referenceParams, icacheReadyRef]

/-- Settles O19: the port's two answers, FETCH's one call at `pc`, and a next memory in which the port does not occur. -/
theorem instructionPort : Obligations.InstructionPort := by
  unfold Obligations.InstructionPort
  refine ⟨fun P c m a => ⟨fun hready => ?answer, fun hnot => icacheAccess_of_not_ready hnot m a⟩,
    fun P s => ⟨signals_icacheR P s, (cycle P s).memory, .inr rfl, cycleFetch_eq P s⟩,
    fun P s => ⟨cycle_memory P s, cycle_memory_of_pc P s, cycle_memory_of_icacheReady P s⟩,
    referenceParams_icacheReady⟩
  case answer =>
    rw [icacheAccess_of_ready hready]
    exact ⟨rfl, wordAddr a, wordAddr_toNat a, word_toNat m (wordAddr a)⟩

end Sys2Proof.Machine
end

section
/-! The control-store address (41_control_store.md R121): the row as arithmetic on the instruction word. -/

namespace Sys2Proof.Machine

/-- A bit as a number (40_bit_primitives.md R108). -/
theorem bit_toNat {w : Nat} (x : BitVec w) (i : Nat) (h : Bits.IndexOk w i) :
    (Bits.bit x i h).toNat = x.toNat / 2 ^ i % 2 := by
  rw [Bits.bit_eq, BitVec.getLsbD, Nat.toNat_testBit]

/-- `IR[15:11]` reaches the top of the word, so nothing is cut off above it. -/
theorem fieldRowHigh_toNat (ir : Word) : (fieldRowHigh ir).toNat = ir.toNat / 2 ^ 11 := by
  have hword : ir.toNat < 2 ^ 16 := ir.isLt
  rw [fieldRowHigh, Bits.toNat_range, Nat.shiftRight_eq_div_pow]
  omega

theorem controlRow_toNat_eq_div (ir : Word) :
    (controlRow ir).toNat = 2 * (ir.toNat / 2 ^ 11) + ir.toNat / 2 ^ 5 % 2 := by
  rw [controlRow_toNat, fieldRowHigh_toNat, bit_toNat]

/-- `IR[15:11]` is the opcode `IR[15:12]` followed by `IR[11]`. -/
theorem controlRow_toNat_eq_opcode (ir : Word) :
    (controlRow ir).toNat = 4 * (ir.toNat / 2 ^ 12) + 2 * (ir.toNat / 2 ^ 11 % 2) + ir.toNat / 2 ^ 5 % 2 := by
  rw [controlRow_toNat_eq_div]
  omega

/-- DE looks up the row of the word in its latch, whether the latch is valid or not (R121, R201). -/
theorem deControlWord_eq (P : Params) (l : DeLatch) : deControlWord P l = P.ucode (controlRow l.ir) := rfl

/-- Settles O36: both forms of the row, DE's lookup, and the rows of `ADD R4, R1, R5` and `ADD R1, R1, #1`. -/
theorem controlRowAddress : Obligations.ControlRowAddress := by
  unfold Obligations.ControlRowAddress
  exact ⟨fun ir => ⟨controlRow_toNat_eq_div ir, controlRow_toNat_eq_opcode ir⟩, deControlWord_eq, by decide, by decide⟩

end Sys2Proof.Machine
end

section
/-! The SR stage's destination and enables (43_stage_sr.md R153): what a bubble in SR leaves unchanged at the clock edge, and
what remains of the dependency sources. -/

namespace Sys2Proof.Machine

/-- Without a register write-back in SR, only AGEX and MEM are dependency sources of a register (47_hazard_stall.md R232). -/
theorem pending_of_not (a : AgexSignals) (m : MemSignals) {r : SrSignals} (h : r.vSrLdReg = false) (i : RegId) :
    pending a m r i = ((a.vAgexLdReg && a.agexDrid == i) || (m.vMemLdReg && m.memDrid == i)) := by
  simp [pending, h]

/-- Without a flag write-back in SR, only AGEX and MEM are dependency sources of the flags (R232). -/
theorem ccPending_of_not (a : AgexSignals) (m : MemSignals) {r : SrSignals} (h : r.vSrLdCc = false) :
    ccPending a m r = (a.vAgexLdCc || m.vMemLdCc) := by
  simp [ccPending, h]

/-- The SR signals of a cycle are the SR stage's on its latch (42_pipeline_cycle.md R143). -/
theorem signals_sr (P : Params) (s : State) : (signals P s).sr = srStage s.sr := rfl

/-- A bubble in SR writes no register at the edge (R153, R154). -/
theorem cycle_regs_of_bubble (P : Params) {s : State} (h : s.sr.v = false) : (cycle P s).regs = s.regs :=
  writeBackRegs_of_not (cycleSr s) s.regs (srStage_of_bubble s.sr h).1

/-- A bubble in SR leaves the flags at the edge (R153, R154). -/
theorem cycle_cc_of_bubble (P : Params) {s : State} (h : s.sr.v = false) : (cycle P s).cc = s.cc :=
  writeBackCC_of_not (cycleSr s) s.cc (srStage_of_bubble s.sr h).2

/-- Settles O17: the destination and the enables are the stage's own fields; a bubble clears both enables, so it writes
nothing and drops out of both dependency checks. -/
theorem storeStageEnables : Obligations.StoreStageEnables := by
  unfold Obligations.StoreStageEnables
  intro P s
  refine ⟨rfl, rfl, rfl, fun hbubble => ?bubble⟩
  case bubble =>
    obtain ⟨hreg, hcc⟩ := srStage_of_bubble s.sr hbubble
    rw [signals_sr]
    exact ⟨cycle_regs_of_bubble P hbubble, cycle_cc_of_bubble P hbubble, pending_of_not _ _ hreg,
      ccPending_of_not _ _ hcc⟩

end Sys2Proof.Machine
end

section
/-! Hazard detection (47_hazard_stall.md R232, R233, R236): the producers a DE occupant waits for, the dependency stall and the
pc-load condition, each as a condition on the latches and on the signals of the stages. -/

namespace Sys2Proof.Machine

section
variable (P : Params) (s : State)

/-! What each stage announces to DE, gated by its valid bit. -/

theorem cycleAgex_vAgexLdReg_iff :
    (cycleAgex s).vAgexLdReg = true ↔ s.agex.v = true ∧ flagAt agexFirst s.agex.cs .ldReg = true :=
  Bool.and_eq_true_iff

theorem cycleAgex_vAgexLdCc_iff :
    (cycleAgex s).vAgexLdCc = true ↔ s.agex.v = true ∧ flagAt agexFirst s.agex.cs .ldCc = true :=
  Bool.and_eq_true_iff

theorem cycleAgex_agexDrid : (cycleAgex s).agexDrid = s.agex.drid := rfl

theorem cycleMem_vMemLdReg_iff :
    (cycleMem P s).signals.vMemLdReg = true ↔ s.mem.v = true ∧ flagAt memFirst s.mem.cs .ldReg = true :=
  Bool.and_eq_true_iff

theorem cycleMem_vMemLdCc_iff :
    (cycleMem P s).signals.vMemLdCc = true ↔ s.mem.v = true ∧ flagAt memFirst s.mem.cs .ldCc = true :=
  Bool.and_eq_true_iff

theorem cycleMem_memDrid : (cycleMem P s).signals.memDrid = s.mem.drid := rfl

theorem cycleSr_vSrLdReg_iff :
    (cycleSr s).vSrLdReg = true ↔ s.sr.v = true ∧ flagAt srFirst s.sr.cs .ldReg = true :=
  Bool.and_eq_true_iff

theorem cycleSr_vSrLdCc_iff :
    (cycleSr s).vSrLdCc = true ↔ s.sr.v = true ∧ flagAt srFirst s.sr.cs .ldCc = true :=
  Bool.and_eq_true_iff

theorem cycleSr_srRegId : (cycleSr s).srRegId = s.sr.drid := rfl

end

/-- A register is pending exactly when one of the three stages announces a write to it (R232). -/
theorem pending_iff (a : AgexSignals) (m : MemSignals) (r : SrSignals) (i : RegId) :
    pending a m r i = true ↔ (a.vAgexLdReg = true ∧ a.agexDrid = i) ∨ (m.vMemLdReg = true ∧ m.memDrid = i) ∨
      (r.vSrLdReg = true ∧ r.srRegId = i) := by
  simp only [pending, Bool.or_eq_true, Bool.and_eq_true, beq_iff_eq, or_assoc]

/-- The flags are pending exactly when one of the three stages announces a write to them (R232). -/
theorem ccPending_iff (a : AgexSignals) (m : MemSignals) (r : SrSignals) :
    ccPending a m r = true ↔ a.vAgexLdCc = true ∨ m.vMemLdCc = true ∨ r.vSrLdCc = true := by
  simp only [ccPending, Bool.or_eq_true, or_assoc]

/-- The pending registers of a cycle, read off the latches: a stage's destination is its latch's DRID. -/
theorem cycle_pending_iff (P : Params) (s : State) (i : RegId) :
    pending (cycleAgex s) (cycleMem P s).signals (cycleSr s) i = true ↔
      (s.agex.v = true ∧ flagAt agexFirst s.agex.cs .ldReg = true ∧ s.agex.drid = i) ∨
        (s.mem.v = true ∧ flagAt memFirst s.mem.cs .ldReg = true ∧ s.mem.drid = i) ∨
        (s.sr.v = true ∧ flagAt srFirst s.sr.cs .ldReg = true ∧ s.sr.drid = i) := by
  rw [pending_iff, cycleAgex_vAgexLdReg_iff, cycleMem_vMemLdReg_iff, cycleSr_vSrLdReg_iff, cycleAgex_agexDrid,
    cycleMem_memDrid, cycleSr_srRegId]
  simp only [and_assoc]

/-- The pending flags of a cycle, read off the latches. -/
theorem cycle_ccPending_iff (P : Params) (s : State) :
    ccPending (cycleAgex s) (cycleMem P s).signals (cycleSr s) = true ↔
      (s.agex.v = true ∧ flagAt agexFirst s.agex.cs .ldCc = true) ∨
        (s.mem.v = true ∧ flagAt memFirst s.mem.cs .ldCc = true) ∨
        (s.sr.v = true ∧ flagAt srFirst s.sr.cs .ldCc = true) := by
  rw [ccPending_iff, cycleAgex_vAgexLdCc_iff, cycleMem_vMemLdCc_iff, cycleSr_vSrLdCc_iff]

/-- The dependency check over what is pending (R233). -/
theorem depStallOf_iff (deV : Bool) (cw : ControlWord) (i j : RegId) (a : AgexSignals) (m : MemSignals) (r : SrSignals) :
    depStallOf deV cw i j a m r = true ↔ deV = true ∧
      ((flagAt 0 cw .sr1Needed = true ∧ pending a m r i = true) ∨
        (flagAt 0 cw .sr2Needed = true ∧ pending a m r j = true) ∨
        (flagAt 0 cw .brOp = true ∧ ccPending a m r = true)) := by
  simp only [depStallOf, Bool.or_eq_true, Bool.and_eq_true, or_assoc]

/-- DE checks the word in its latch against the three older stages of the same cycle (46_stage_decode_fetch.md R208). -/
theorem signals_depStall (P : Params) (s : State) : (signals P s).de.depStall =
    depStallOf s.de.v (deControlWord P s.de) (sr1Id s.de.ir) (sr2Id s.de.ir) (cycleAgex s) (cycleMem P s).signals
      (cycleSr s) := rfl

/-- Settles O26: the dependency check of R233, with what is pending read off the three latches. -/
theorem dependencyStallCondition : Obligations.DependencyStallCondition := by
  unfold Obligations.DependencyStallCondition
  intro P s
  rw [signals_depStall, depStallOf_iff, cycle_pending_iff, cycle_pending_iff, cycle_ccPending_iff]

theorem branchTaken_iff (g : MemSignals) : branchTaken g = true ↔ g.memPcMux ≠ 0#2 := bne_iff_ne

/-- `pc` is loaded when the port answers and no stall is left, a MEM branch stall being waived when taken (R236). -/
theorem ldPcOf_iff (icacheR depStall memStall agexBr deBr memBr taken : Bool) :
    ldPcOf icacheR depStall memStall agexBr deBr memBr taken = true ↔
      icacheR = true ∧ depStall = false ∧ memStall = false ∧ agexBr = false ∧ deBr = false ∧
        (memBr = false ∨ taken = true) := by
  simp only [ldPcOf, Bool.and_eq_true, Bool.not_eq_true', Bool.and_eq_false_iff, Bool.not_eq_false', and_assoc]

/-- The condition of a cycle is that of the signals the host can query in it (R236, 60_exceptions.md R312). -/
theorem signals_ldPc (P : Params) (s : State) : (signals P s).ldPc =
    ldPcOf (signals P s).icacheR (signals P s).de.depStall (signals P s).mem.memStall (signals P s).agex.vAgexBrStall
      (signals P s).de.vDeBrStall (signals P s).mem.vMemBrStall (branchTaken (signals P s).mem) := rfl

/-- Settles O27: the pc-load condition of R236 on the cycle's own signals. -/
theorem pcLoadCondition : Obligations.PcLoadCondition := by
  unfold Obligations.PcLoadCondition
  intro P s
  simp only [signals_ldPc P s, ldPcOf_iff, branchTaken_iff]

end Sys2Proof.Machine
end

section
/-! The step and the host's loop (49_isa_memory_control.md R287, 70_reset_and_hazards.md R321, R325, R327): what every
instruction does to the state, the word at `pc` as two bytes, the run of the host, and reset. -/

namespace Sys2Proof.Machine

open Bits

/-- The shapes an instruction's effect can have: the shared operations of 48_isa_operate.md R250 and
49_isa_memory_control.md R270. -/
inductive InstrEffect (s : State) : State → Prop
  | result (dr : RegId) (v : Word) : InstrEffect s (s.writeResult dr v)
  | address (dr : RegId) (v : Word) : InstrEffect s (s.writeAddress dr v)
  | storeByte (a : Word) (v : Byte) : InstrEffect s (s.store (memWriteByte s.memory a v))
  | storeWord (a v : Word) : InstrEffect s (s.store (memWriteWord s.memory a v))
  | jump (t : Word) : InstrEffect s (s.setPc t)
  | call (t : Word) : InstrEffect s (s.callTo t)

/-- Every instruction answers a next state, of one of the shapes (60_exceptions.md R300). -/
theorem exec_effect (i : Instr) (s : State) : ∃ t, exec i s = .next t ∧ InstrEffect s t := by
  cases i with
  | addReg dr a b => exact ⟨_, exec_addReg s dr a b, .result ..⟩
  | addImm dr a k => exact ⟨_, exec_addImm s dr a k, .result ..⟩
  | andReg dr a b => exact ⟨_, exec_andReg s dr a b, .result ..⟩
  | andImm dr a k => exact ⟨_, exec_andImm s dr a k, .result ..⟩
  | xorReg dr a b => exact ⟨_, exec_xorReg s dr a b, .result ..⟩
  | xorImm dr a k => exact ⟨_, exec_xorImm s dr a k, .result ..⟩
  | notReg dr a => exact ⟨_, exec_notReg s dr a, .result ..⟩
  | lshf dr a k => exact ⟨_, exec_lshf s dr a k, .result ..⟩
  | rshfl dr a k => exact ⟨_, exec_rshfl s dr a k, .result ..⟩
  | rshfa dr a k => exact ⟨_, exec_rshfa s dr a k, .result ..⟩
  | lea dr off => exact ⟨_, exec_lea s dr off, .address ..⟩
  | ldb dr b off => exact ⟨_, exec_ldb s dr b off, .result ..⟩
  | ldw dr b off => exact ⟨_, exec_ldw s dr b off, .result ..⟩
  | stb sr b off => exact ⟨_, exec_stb s sr b off, .storeByte ..⟩
  | stw sr b off => exact ⟨_, exec_stw s sr b off, .storeWord ..⟩
  | br n z p off => exact ⟨_, exec_br s n z p off, .jump _⟩
  | nop => exact ⟨_, exec_nop s, .jump _⟩
  | jmp b => exact ⟨_, exec_jmp s b, .jump _⟩
  | ret => exact ⟨_, exec_ret s, .jump _⟩
  | jsr off => exact ⟨_, exec_jsr s off, .call _⟩
  | jsrr b => exact ⟨_, exec_jsrr s b, .call _⟩
  | trap v => exact ⟨_, exec_trap s v, .call _⟩
  | halt => exact ⟨_, exec_halt s, .call _⟩
  | rti => exact ⟨_, exec_rti s, .jump _⟩
  | reserved1010 => exact ⟨_, exec_reserved1010 s, .jump _⟩
  | reserved1011 => exact ⟨_, exec_reserved1011 s, .jump _⟩

theorem InstrEffect.inv {s t : State} (h : InstrEffect s t) (hs : s.Inv) : t.Inv := by
  obtain ⟨hwf, hcc⟩ := hs
  cases h with
  | result dr v => exact ⟨hwf, ccOf_oneHot v⟩
  | address dr v => exact ⟨hwf, hcc⟩
  | storeByte a v => exact ⟨wf_memWriteByte s.memory a v hwf, hcc⟩
  | storeWord a v => exact ⟨wf_memWriteWord s.memory a v hwf, hcc⟩
  | jump t => exact ⟨hwf, hcc⟩
  | call t => exact ⟨hwf, hcc⟩

/-- A cycle writes memory through the masked write only and the flags as those of one value only. -/
theorem cycle_keeps_inv (P : Params) {s : State} (hs : s.Inv) : (cycle P s).Inv := by
  obtain ⟨hwf, hcc⟩ := hs
  refine ⟨wf_memStage P _ _ _ s.mem hwf, ?_⟩
  rw [cycle_cc]
  cases h : (cycleSr s).vSrLdCc with
  | true => rw [cycleSr, writeBackCC_of_load _ _ h]; exact ccOf_oneHot _
  | false => rwa [writeBackCC_of_not _ _ h]

theorem hostCycle_keeps_inv (P : Params) {s : State} (hs : s.Inv) : (hostCycle P s).Inv := by
  unfold hostCycle
  split
  · exact cycle_keeps_inv P hs
  · exact cycle_keeps_inv P hs

theorem sequentialStep_keeps_inv {s t : State} (hs : s.Inv) (h : sequentialStep s = .next t) : t.Inv := by
  by_cases hpc : s.pc = 0x0000#16
  · simp only [sequentialStep, hpc, if_true, Host.Outcome.next.injEq] at h
    subst h
    exact hs
  · obtain ⟨u, hu, he⟩ := exec_effect (fetchInstr s) s
    rw [sequentialStep_of_ne s hpc, hu, Host.Outcome.next.injEq] at h
    subst h
    exact he.inv hs

/-- Settles O13: the pipeline by `cycle_keeps_inv`, the sequential machine by the shapes of an instruction's effect. -/
theorem stepKeepsInvariant : Obligations.StepKeepsInvariant := by
  unfold Obligations.StepKeepsInvariant
  intro s t hs h
  cases hrun : s.run with
  | false => rw [step_of_ended s hrun] at h; cases h
  | true =>
    cases he : s.engine with
    | pipeline =>
      rw [step_of_pipeline s hrun he] at h
      cases h
      exact hostCycle_keeps_inv referenceParams hs
    | sequential =>
      rw [step_of_sequential s hrun he] at h
      exact sequentialStep_keeps_inv hs h

theorem exists_sequentialStep (s : State) : ∃ t, sequentialStep s = .next t := by
  by_cases hpc : s.pc = 0x0000#16
  · exact ⟨s.stop, by simp [sequentialStep, hpc]⟩
  · obtain ⟨u, hu, -⟩ := exec_effect (fetchInstr s) s
    exact ⟨u, by rw [sequentialStep_of_ne s hpc, hu]⟩

/-- Settles O9: neither machine refuses while it runs. -/
theorem stepAnswersUnlessRunEnded : Obligations.StepAnswersUnlessRunEnded := by
  unfold Obligations.StepAnswersUnlessRunEnded
  refine fun s => ⟨fun hrun => ?_, step_of_ended s⟩
  cases he : s.engine with
  | pipeline => exact ⟨_, step_of_pipeline s hrun he⟩
  | sequential => rw [step_of_sequential s hrun he]; exact exists_sequentialStep s

/-! The even and the odd byte address of a word. -/

theorem evenAddress_toNat (a : Word) : (a &&& 0xFFFE#16).toNat = a.toNat - a.toNat % 2 := by
  have h : a &&& 0xFFFE#16 = (a >>> 1) <<< 1 := by
    apply BitVec.eq_of_getLsbD_eq
    intro i hi
    interval_cases i <;> simp
  have hlt := a.isLt
  rw [h, BitVec.toNat_shiftLeft, BitVec.toNat_ushiftRight, Nat.shiftLeft_eq, Nat.shiftRight_eq_div_pow]
  omega

theorem oddAddress_toNat (a : Word) : (a ||| 0x0001#16).toNat = a.toNat - a.toNat % 2 + 1 := by
  have h : a ||| 0x0001#16 = (a &&& 0xFFFE#16) + 1#16 := by
    rw [BitVec.add_eq_or_of_and_eq_zero]
    · apply BitVec.eq_of_getLsbD_eq
      intro i hi
      interval_cases i <;> simp
    · rw [BitVec.and_assoc]; simp
  have he := evenAddress_toNat a
  have hlt := a.isLt
  rw [h, BitVec.toNat_add, he, BitVec.toNat_ofNat]
  omega

/-- The low plane of the word that contains an address, as a byte (20_memory.md R53). -/
theorem byte_evenAddress (m : Memory) (a : Word) : m.byte (a &&& 0xFFFE#16) = m.getLow (wordAddr a) := by
  rw [Memory.byte, Memory.getLow, evenAddress_toNat, lowAddr_wordAddr]

/-- The high plane of the word that contains an address, as a byte (R53). -/
theorem byte_oddAddress (m : Memory) (a : Word) : m.byte (a ||| 0x0001#16) = m.getHigh (wordAddr a) := by
  rw [Memory.byte, Memory.getHigh, oddAddress_toNat, highAddr_wordAddr]

/-- A word read is the word of its two bytes (R50, R55). -/
theorem memReadWord_eq_wordOfBytes (m : Memory) (a : Word) :
    memReadWord m a = wordOfBytes (m.byte (a &&& 0xFFFE#16)) (m.byte (a ||| 0x0001#16)) := by
  rw [byte_evenAddress, byte_oddAddress]
  rfl

theorem memReadWord_toNat (m : Memory) (a : Word) :
    (memReadWord m a).toNat = 256 * (m.byte (a ||| 0x0001#16)).toNat + (m.byte (a &&& 0xFFFE#16)).toNat := by
  rw [byte_evenAddress, byte_oddAddress]
  exact word_toNat m (wordAddr a)

theorem decode_pair (low high : Byte) (rest : List Byte) :
    decode (low :: high :: rest) = .ok (decodeWord (wordOfBytes low high), rest) := rfl

/-- Settles O6: the word at `pc` is the one its two bytes make. -/
theorem stepRunsDecodedInstruction : Obligations.StepRunsDecodedInstruction := by
  unfold Obligations.StepRunsDecodedInstruction
  intro s low high i hrun he hpc hlow hhigh hdecode
  have hi : decodeWord (wordOfBytes low high) = i := by
    rw [decode_pair] at hdecode
    exact congrArg Prod.fst (Except.ok.inj hdecode)
  rw [step_of_sequential s hrun he, sequentialStep_of_ne s hpc, fetchInstr, fetchWord, memReadWord_eq_wordOfBytes,
    hlow, hhigh, hi]

theorem hostCycle_of_ne (P : Params) {s : State} (h : s.pc ≠ 0x0000#16) : hostCycle P s = cycle P s := if_neg h

theorem hostCycle_of_zero (P : Params) {s : State} (h : s.pc = 0x0000#16) :
    hostCycle P s = { cycle P s with run := false } := if_pos h

/-- Settles O7: the host's cycle, and the three fields a cycle moves by rule. -/
theorem pipelineStepIsOneHostCycle : Obligations.PipelineStepIsOneHostCycle := by
  unfold Obligations.PipelineStepIsOneHostCycle
  refine ⟨fun s hrun he => ?_, fun P s => ⟨cycle_cycleCount P s, cycle_run P s, cycle_engine P s⟩⟩
  rw [step_of_pipeline s hrun he]
  exact ⟨fun h => by rw [hostCycle_of_ne _ h], fun h => by rw [hostCycle_of_zero _ h]⟩

/-- Settles O8: the stop at 0x0000 clears `RUN`, and a cleared `RUN` is the end. -/
theorem sequentialStopsAtZero : Obligations.SequentialStopsAtZero := by
  unfold Obligations.SequentialStopsAtZero
  intro s hrun he hpc
  refine ⟨?_, step_of_ended _ rfl⟩
  rw [step_of_sequential s hrun he, sequentialStep, if_pos hpc]
  rfl

@[simp] theorem cycles_zero (P : Params) (s : State) : cycles P 0 s = s := rfl

theorem cycles_succ (P : Params) (n : Nat) (s : State) : cycles P (n + 1) s = cycles P n (cycle P s) := rfl

/-- The last of `n + 1` cycles begins where `n` cycles end. -/
theorem cycles_succ_last (P : Params) (n : Nat) (s : State) : cycles P (n + 1) s = cycle P (cycles P n s) := by
  induction n generalizing s with
  | zero => rfl
  | succ n ih => exact ih (cycle P s)

theorem cycles_run (P : Params) (n : Nat) (s : State) : (cycles P n s).run = s.run := by
  induction n with
  | zero => rfl
  | succ n ih => rw [cycles_succ_last, cycle_run, ih]

theorem cycles_cycleCount (P : Params) (n : Nat) (s : State) : (cycles P n s).cycleCount = s.cycleCount + n := by
  induction n with
  | zero => rfl
  | succ n ih => rw [cycles_succ_last, cycle_cycleCount, ih, Nat.add_assoc]

theorem hostRun_succ (P : Params) (n : Nat) {s : State} (h : s.run = true) :
    hostRun P (n + 1) s = hostRun P n (hostCycle P s) := by
  simp [hostRun, h]

theorem hostRun_of_ended (P : Params) (n : Nat) {s : State} (h : s.run = false) : hostRun P n s = s := by
  cases n with
  | zero => rfl
  | succ n => simp [hostRun, h]

/-- Away from 0x0000 the host's run is the pipeline's cycles (70_reset_and_hazards.md R325). -/
theorem hostRun_of_ne (P : Params) (n : Nat) {s : State} (hrun : s.run = true)
    (hne : ∀ k < n, (cycles P k s).pc ≠ 0x0000#16) : hostRun P n s = cycles P n s := by
  induction n generalizing s with
  | zero => rfl
  | succ n ih =>
    have hpc : s.pc ≠ 0x0000#16 := hne 0 n.succ_pos
    rw [hostRun_succ P n hrun, hostCycle_of_ne P hpc, cycles_succ]
    exact ih hrun fun k hk => hne (k + 1) (by omega)

/-- The first time `pc` is 0x0000 is one cycle before the end of the run (R327). -/
theorem hostRun_of_zero (P : Params) (k n : Nat) {s : State} (hrun : s.run = true) (hk : k < n)
    (hne : ∀ j < k, (cycles P j s).pc ≠ 0x0000#16) (hz : (cycles P k s).pc = 0x0000#16) :
    hostRun P n s = (cycles P (k + 1) s).stop := by
  obtain ⟨n, rfl⟩ : ∃ n', n = n' + 1 := ⟨n - 1, by omega⟩
  induction k generalizing s n with
  | zero =>
    have hpc : s.pc = 0x0000#16 := hz
    rw [hostRun_succ P n hrun, hostCycle_of_zero P hpc]
    exact hostRun_of_ended P n rfl
  | succ k ih =>
    obtain ⟨n, rfl⟩ : ∃ n', n = n' + 1 := ⟨n - 1, by omega⟩
    have hpc : s.pc ≠ 0x0000#16 := hne 0 k.succ_pos
    rw [hostRun_succ P (n + 1) hrun, hostCycle_of_ne P hpc]
    exact ih (s := cycle P s) hrun (fun j hj => hne (j + 1) (by omega)) hz n (by omega)

/-- Settles O10. -/
theorem hostStopsOneCycleAfterZero : Obligations.HostStopsOneCycleAfterZero := by
  unfold Obligations.HostStopsOneCycleAfterZero
  exact fun P s n hrun => ⟨hostRun_of_ne P n hrun, fun k hk hne hz => hostRun_of_zero P k n hrun hk hne hz⟩

theorem reset_reg (r : RegId) : State.reset.reg r = 0x0000#16 := by
  revert r
  decide

/-- Settles O11: the reset copies the reset parameters and zeroes the rest. -/
theorem resetState : Obligations.ResetState := by
  unfold Obligations.ResetState
  refine ⟨fun R => ?_, rfl, reset_reg, rfl, fun a => rfl⟩
  exact ⟨rfl, rfl, rfl, rfl, rfl, rfl, rfl, rfl, rfl, rfl, ⟨rfl, rfl, rfl, rfl⟩, rfl, rfl⟩

/-- Settles O12: at reset no latch is valid, memory is the empty list and Z alone is set. -/
theorem resetMeetsInvariants : Obligations.ResetMeetsInvariants := by
  unfold Obligations.ResetMeetsInvariants
  have hagex : State.reset.agex.v ≠ true := Bool.false_ne_true
  have hmem : State.reset.mem.v ≠ true := Bool.false_ne_true
  exact ⟨⟨wf_reset, by decide⟩, ⟨fun h => absurd h hagex, fun h => absurd h hmem⟩,
    ⟨fun h => absurd h hagex, fun h => absurd h hmem⟩⟩

end Sys2Proof.Machine
end

section
/-! The slices of a control word (41_control_store.md R123, R124): each is a window of the word, so a field is the same bit
in all of them. -/

namespace Sys2Proof.Machine

theorem getLsbD_agexSlice (cw : ControlWord) {i : Nat} (h : i < 20) :
    (agexSlice cw).getLsbD i = cw.getLsbD (3 + i) := by
  exact (Bits.getLsbD_range cw 22 3 i (by decide)).trans (by simp [h])

theorem getLsbD_memSlice (cs : AgexCS) {i : Nat} (h : i < 11) : (memSlice cs).getLsbD i = cs.getLsbD (9 + i) := by
  exact (Bits.getLsbD_range cs 19 9 i (by decide)).trans (by simp [h])

theorem getLsbD_srSlice (cs : MemCS) {i : Nat} (h : i < 4) : (srSlice cs).getLsbD i = cs.getLsbD (7 + i) := by
  exact (Bits.getLsbD_range cs 10 7 i (by decide)).trans (by simp [h])

/-- A bit of MEM_CS in the full word. -/
theorem getLsbD_memSlice_agexSlice (cw : ControlWord) {i : Nat} (h : i < 11) :
    (memSlice (agexSlice cw)).getLsbD i = cw.getLsbD (12 + i) := by
  rw [getLsbD_memSlice _ h, getLsbD_agexSlice _ (by omega), ← Nat.add_assoc]

/-- A bit of SR_CS in the full word. -/
theorem getLsbD_srSlice_word (cw : ControlWord) {i : Nat} (h : i < 4) :
    (srSlice (memSlice (agexSlice cw))).getLsbD i = cw.getLsbD (19 + i) := by
  rw [getLsbD_srSlice _ h, getLsbD_memSlice_agexSlice _ (by omega), ← Nat.add_assoc]

section
variable (cw : ControlWord) (f : ControlField)

theorem flagAt_agexSlice (h : HasFlag agexFirst 20 f) (h0 : HasFlag 0 23 f) :
    flagAt agexFirst (agexSlice cw) f h = flagAt 0 cw f h0 := by
  obtain ⟨-, hfirst, hlt, -⟩ := h
  rw [flagAt_eq, flagAt_eq, getLsbD_agexSlice _ hlt, Nat.add_sub_cancel' hfirst, Nat.sub_zero]

theorem flagAt_memSlice_word (h : HasFlag memFirst 11 f) (h0 : HasFlag 0 23 f) :
    flagAt memFirst (memSlice (agexSlice cw)) f h = flagAt 0 cw f h0 := by
  obtain ⟨-, hfirst, hlt, -⟩ := h
  rw [flagAt_eq, flagAt_eq, getLsbD_memSlice_agexSlice _ hlt, Nat.add_sub_cancel' hfirst, Nat.sub_zero]

theorem flagAt_srSlice_word (h : HasFlag srFirst 4 f) (h0 : HasFlag 0 23 f) :
    flagAt srFirst (srSlice (memSlice (agexSlice cw))) f h = flagAt 0 cw f h0 := by
  obtain ⟨-, hfirst, hlt, -⟩ := h
  rw [flagAt_eq, flagAt_eq, getLsbD_srSlice_word _ hlt, Nat.add_sub_cancel' hfirst, Nat.sub_zero]

theorem pairAt_agexSlice (h : HasPair agexFirst 20 f) (h0 : HasPair 0 23 f) :
    pairAt agexFirst (agexSlice cw) f h = pairAt 0 cw f h0 := by
  obtain ⟨-, hfirst, hlt, -⟩ := h
  rw [pairAt_eq, pairAt_eq, getLsbD_agexSlice _ hlt, getLsbD_agexSlice _ (Nat.lt_of_succ_lt hlt), ← Nat.add_assoc,
    Nat.add_sub_cancel' hfirst, Nat.sub_zero]

theorem pairAt_memSlice_word (h : HasPair memFirst 11 f) (h0 : HasPair 0 23 f) :
    pairAt memFirst (memSlice (agexSlice cw)) f h = pairAt 0 cw f h0 := by
  obtain ⟨-, hfirst, hlt, -⟩ := h
  rw [pairAt_eq, pairAt_eq, getLsbD_memSlice_agexSlice _ hlt, getLsbD_memSlice_agexSlice _ (Nat.lt_of_succ_lt hlt),
    ← Nat.add_assoc, Nat.add_sub_cancel' hfirst, Nat.sub_zero]

theorem pairAt_srSlice_word (h : HasPair srFirst 4 f) (h0 : HasPair 0 23 f) :
    pairAt srFirst (srSlice (memSlice (agexSlice cw))) f h = pairAt 0 cw f h0 := by
  obtain ⟨-, hfirst, hlt, -⟩ := h
  rw [pairAt_eq, pairAt_eq, getLsbD_srSlice_word _ hlt, getLsbD_srSlice_word _ (Nat.lt_of_succ_lt hlt),
    ← Nat.add_assoc, Nat.add_sub_cancel' hfirst, Nat.sub_zero]

end

/-- Settles O39: one lemma for each slice and each width of field. -/
theorem slicesCarryTheSameFields : Obligations.SlicesCarryTheSameFields := by
  unfold Obligations.SlicesCarryTheSameFields
  exact fun cw f =>
    ⟨fun h0 => ⟨fun h => flagAt_agexSlice cw f h h0, fun h => flagAt_memSlice_word cw f h h0,
        fun h => flagAt_srSlice_word cw f h h0⟩,
      fun h0 => ⟨fun h => pairAt_agexSlice cw f h h0, fun h => pairAt_memSlice_word cw f h h0,
        fun h => pairAt_srSlice_word cw f h h0⟩⟩

end Sys2Proof.Machine
end

section
/-! What a clock edge does to each latch, by the stalls of the cycle (47_hazard_stall.md R237), and the invariants of the
whole pipeline. -/

namespace Sys2Proof.Machine

section
variable (P : Params) {s : State}

/-- The pc-load condition on the latches' own signals (R236). -/
theorem cycleLdPc_iff (s : State) : cycleLdPc P s = true ↔
    P.icacheReady s.cycleCount = true ∧ (cycleDe P s).depStall = false ∧ (cycleMem P s).signals.memStall = false ∧
      (cycleAgex s).vAgexBrStall = false ∧ (cycleDe P s).vDeBrStall = false ∧
      ((cycleMem P s).signals.vMemBrStall = false ∨ memPcMux s.mem ≠ 0#2) := by
  rw [cycleLdPc, ldPcOf_iff, branchTaken_iff, cycleFetch, icacheAccess_ready]
  rfl

theorem cycleLdPc_of_memStall (hm : (cycleMem P s).signals.memStall = true) : cycleLdPc P s = false :=
  Bool.eq_false_iff.mpr fun hld => by simp [cycleLdPc_iff, hm] at hld

theorem cycleLdPc_of_depStall (hd : (cycleDe P s).depStall = true) : cycleLdPc P s = false :=
  Bool.eq_false_iff.mpr fun hld => by simp [cycleLdPc_iff, hd] at hld

theorem cycleLdPc_of_deBrStall (h : (cycleDe P s).vDeBrStall = true) : cycleLdPc P s = false :=
  Bool.eq_false_iff.mpr fun hld => by simp [cycleLdPc_iff, h] at hld

theorem cycleLdPc_of_agexBrStall (h : (cycleAgex s).vAgexBrStall = true) : cycleLdPc P s = false :=
  Bool.eq_false_iff.mpr fun hld => by simp [cycleLdPc_iff, h] at hld

theorem cycleLdPc_of_notTaken (h : (cycleMem P s).signals.vMemBrStall = true) (hmux : memPcMux s.mem = 0#2) :
    cycleLdPc P s = false :=
  Bool.eq_false_iff.mpr fun hld => by simp [cycleLdPc_iff, h, hmux] at hld

theorem cycleLdPc_of_not_ready (h : P.icacheReady s.cycleCount = false) : cycleLdPc P s = false :=
  Bool.eq_false_iff.mpr fun hld => by simp [cycleLdPc_iff, h] at hld

/-! Under `mem_stall` MEM, AGEX and DE hold and SR takes a bubble. -/

theorem cycle_mem_of_memStall (hm : (cycleMem P s).signals.memStall = true) : (cycle P s).mem = s.mem := by
  rw [cycle_mem, hm, memNext_of_stall]

theorem cycle_agex_of_memStall (hm : (cycleMem P s).signals.memStall = true) : (cycle P s).agex = s.agex := by
  rw [cycle_agex, hm, agexNext_of_stall]

theorem cycle_de_of_memStall (hm : (cycleMem P s).signals.memStall = true) : (cycle P s).de = s.de := by
  rw [cycle_de, deNext_of_stall _ _ _ _ _ _ _ (.inr hm)]

theorem cycle_sr_v (s : State) : (cycle P s).sr.v = (s.mem.v && !(cycleMem P s).signals.memStall) := rfl

theorem cycle_sr_v_of_memStall (hm : (cycleMem P s).signals.memStall = true) : (cycle P s).sr.v = false := by
  rw [cycle_sr_v, hm, Bool.not_true, Bool.and_false]

theorem cycle_pc_of_not_ldPc (h : cycleLdPc P s = false) : (cycle P s).pc = s.pc := by
  rw [cycle_pc, h]
  rfl

/-! Without it MEM takes AGEX's occupant, AGEX takes DE's, and DE takes the fetched word unless it stalls. -/

theorem cycle_sr_v_of_go (hm : (cycleMem P s).signals.memStall = false) : (cycle P s).sr.v = s.mem.v := by
  rw [cycle_sr_v, hm, Bool.not_false, Bool.and_true]

theorem cycle_mem_of_go (hm : (cycleMem P s).signals.memStall = false) :
    (cycle P s).mem = memNext false s.agex s.mem := by
  rw [cycle_mem, hm]

theorem cycle_agex_of_go (hm : (cycleMem P s).signals.memStall = false) :
    (cycle P s).agex = agexNext P false (cycleDe P s).depStall s.de s.regs s.cc s.agex := by
  rw [cycle_agex, hm]

theorem cycle_agex_v_of_go (hm : (cycleMem P s).signals.memStall = false) :
    (cycle P s).agex.v = (s.de.v && !(cycleDe P s).depStall) := by
  rw [cycle_agex_of_go P hm]
  rfl

theorem cycle_de_of_depStall (hd : (cycleDe P s).depStall = true) : (cycle P s).de = s.de := by
  rw [cycle_de, deNext_of_stall _ _ _ _ _ _ _ (.inl hd)]

theorem cycle_de_of_go (hm : (cycleMem P s).signals.memStall = false) (hd : (cycleDe P s).depStall = false) :
    (cycle P s).de = ⟨cycleLdPc P s && !(cycleMem P s).signals.vMemBrStall, (cycleFetch P s).1, s.pc + 2#16⟩ := by
  rw [cycle_de, hm, hd]
  rfl

/-- Only a valid occupant of DE stalls there (R233). -/
theorem de_v_of_depStall (hd : (cycleDe P s).depStall = true) : s.de.v = true :=
  ((depStallOf_iff _ _ _ _ _ _ _).mp hd).1

theorem depStall_of_bubble (h : s.de.v = false) : (cycleDe P s).depStall = false := by
  rw [Bool.eq_false_iff]
  intro hd
  rw [de_v_of_depStall P hd] at h
  cases h

theorem vMemBrStall_iff (s : State) :
    (cycleMem P s).signals.vMemBrStall = true ↔ s.mem.v = true ∧ s.mem.flag .brStall = true :=
  Bool.and_eq_true_iff

theorem vAgexBrStall_iff (s : State) :
    (cycleAgex s).vAgexBrStall = true ↔ s.agex.v = true ∧ s.agex.flag .brStall = true :=
  Bool.and_eq_true_iff

theorem vDeBrStall_iff (s : State) :
    (cycleDe P s).vDeBrStall = true ↔ s.de.v = true ∧ flagAt 0 (deControlWord P s.de) .brStall = true :=
  Bool.and_eq_true_iff

end

/-! The flags AGEX and MEM hold after an edge that moves an instruction in. -/

theorem agexNext_flag (P : Params) (d : Bool) (l : DeLatch) (regs : Vector Word 8) (cc : CC) (held : AgexLatch)
    (f : ControlField) (h : HasFlag agexFirst 20 f) (h0 : HasFlag 0 23 f) :
    (agexNext P false d l regs cc held).flag f h = flagAt 0 (deControlWord P l) f h0 :=
  flagAt_agexSlice _ f h h0

theorem memNext_flag (l : AgexLatch) (held : MemLatch) (f : ControlField) (h : HasFlag memFirst 11 f)
    (h' : HasFlag agexFirst 20 f) : (memNext false l held).flag f h = l.flag f h' :=
  flagAt_memSlice _ f h h'

/-- Nothing younger is fetched behind a transfer that is in AGEX. -/
theorem cycle_de_v_behind_agex (P : Params) {s : State} (hm : (cycleMem P s).signals.memStall = false)
    (hde : s.de.v = false) (hbr : (cycleAgex s).vAgexBrStall = true) : (cycle P s).de.v = false := by
  rw [cycle_de_of_go P hm (depStall_of_bubble P hde), cycleLdPc_of_agexBrStall P hbr]
  rfl

/-- Nothing younger is fetched behind a transfer that leaves DE. -/
theorem cycle_de_v_behind_de (P : Params) {s : State} (hm : (cycleMem P s).signals.memStall = false)
    (hd : (cycleDe P s).depStall = false) (hbr : (cycleDe P s).vDeBrStall = true) : (cycle P s).de.v = false := by
  rw [cycle_de_of_go P hm hd, cycleLdPc_of_deBrStall P hbr]
  rfl

/-- Nothing younger is fetched behind a transfer that is resolved in MEM. -/
theorem cycle_de_v_behind_mem (P : Params) {s : State} (hm : (cycleMem P s).signals.memStall = false)
    (hde : s.de.v = false) (hbr : (cycleMem P s).signals.vMemBrStall = true) : (cycle P s).de.v = false := by
  rw [cycle_de_of_go P hm (depStall_of_bubble P hde), hbr, Bool.not_true, Bool.and_false]

theorem cycle_keeps_noYounger (P : Params) {s : State} (hs : NoYoungerBehindTransfer s) :
    NoYoungerBehindTransfer (cycle P s) := by
  obtain ⟨hagex, hmem⟩ := hs
  cases hm : (cycleMem P s).signals.memStall with
  | true =>
    unfold NoYoungerBehindTransfer
    rw [cycle_mem_of_memStall P hm, cycle_agex_of_memStall P hm, cycle_de_of_memStall P hm]
    exact ⟨hagex, hmem⟩
  | false =>
    refine ⟨fun hv hbr => ?inAgex, fun hv hbr => ?inMem⟩
    case inAgex =>
      rw [cycle_agex_v_of_go P hm, Bool.and_eq_true_iff, Bool.not_eq_true'] at hv
      rw [cycle_agex_of_go P hm, agexNext_flag _ _ _ _ _ _ _ _ (by decide)] at hbr
      exact cycle_de_v_behind_de P hm hv.2 ((vDeBrStall_iff P s).mpr ⟨hv.1, hbr⟩)
    case inMem =>
      rw [cycle_mem_of_go P hm] at hv hbr
      rw [memNext_flag _ _ _ _ (by decide)] at hbr
      have hde : s.de.v = false := hagex hv hbr
      refine ⟨?_, cycle_de_v_behind_agex P hm hde ((vAgexBrStall_iff s).mpr ⟨hv, hbr⟩)⟩
      rw [cycle_agex_v_of_go P hm, hde, Bool.false_and]

/-- Settles O14: a transfer in DE, in AGEX or resolved in MEM keeps FETCH from making the next word valid. -/
theorem cycleKeepsNoYoungerBehindTransfer : Obligations.CycleKeepsNoYoungerBehindTransfer := by
  unfold Obligations.CycleKeepsNoYoungerBehindTransfer
  exact fun P s hs => cycle_keeps_noYounger P hs

/-! The write to the flags that stands in MEM moves on with its instruction. -/

theorem cycle_vSrLdCc_of_memStall (P : Params) {s : State} (hm : (cycleMem P s).signals.memStall = true) :
    (srStage (cycle P s).sr).vSrLdCc = false :=
  (srStage_of_bubble _ (cycle_sr_v_of_memStall P hm)).2

theorem cycle_vSrLdCc_of_go (P : Params) {s : State} (hm : (cycleMem P s).signals.memStall = false) :
    (srStage (cycle P s).sr).vSrLdCc = (s.mem.v && s.mem.flag .ldCc) := by
  have hv := cycle_sr_v_of_go P hm
  have hf : flagAt srFirst (cycle P s).sr.cs .ldCc = s.mem.flag .ldCc := flagAt_srSlice s.mem.cs .ldCc (by decide) (by decide)
  simp only [srStage, hv, hf]

/-- A branch leaves DE only when no older flag write is in AGEX, MEM or SR (R233). -/
theorem no_flag_write_of_branch (P : Params) {s : State} (hv : s.de.v = true) (hd : (cycleDe P s).depStall = false)
    (hbr : flagAt 0 (deControlWord P s.de) .brOp = true) :
    ¬(s.agex.v = true ∧ s.agex.flag .ldCc = true) ∧ ¬(s.mem.v = true ∧ s.mem.flag .ldCc = true) ∧
      (cycleSr s).vSrLdCc = false := by
  have hnot : ¬ccPending (cycleAgex s) (cycleMem P s).signals (cycleSr s) = true := fun hp =>
    Bool.eq_false_iff.mp hd ((depStallOf_iff _ _ _ _ _ _ _).mpr ⟨hv, .inr (.inr ⟨hbr, hp⟩)⟩)
  rw [cycle_ccPending_iff, not_or, not_or, ← cycleSr_vSrLdCc_iff, Bool.not_eq_true] at hnot
  exact hnot

theorem cycle_keeps_branchSnapshots (P : Params) {s : State} (hs : BranchSnapshotsLive s) :
    BranchSnapshotsLive (cycle P s) := by
  obtain ⟨hagex, hmem⟩ := hs
  cases hm : (cycleMem P s).signals.memStall with
  | true =>
    unfold BranchSnapshotsLive
    rw [cycle_mem_of_memStall P hm, cycle_agex_of_memStall P hm, cycle_vSrLdCc_of_memStall P hm, cycle_cc]
    refine ⟨fun hv hbr => ?_, fun hv hbr => ?_⟩
    · obtain ⟨hcc, hnot, hsr⟩ := hagex hv hbr
      exact ⟨by rw [cycleSr, writeBackCC_of_not _ _ hsr, hcc], hnot, rfl⟩
    · obtain ⟨hcc, hsr⟩ := hmem hv hbr
      exact ⟨by rw [cycleSr, writeBackCC_of_not _ _ hsr, hcc], rfl⟩
  | false =>
    unfold BranchSnapshotsLive
    rw [cycle_mem_of_go P hm, cycle_agex_of_go P hm, cycle_vSrLdCc_of_go P hm, cycle_cc]
    refine ⟨fun hv hbr => ?leavesDe, fun hv hbr => ?leavesAgex⟩
    case leavesDe =>
      obtain ⟨hdv, hd⟩ := Bool.and_eq_true_iff.mp hv
      rw [agexNext_flag _ _ _ _ _ _ _ _ (by decide)] at hbr
      obtain ⟨hnagex, hnmem, hnsr⟩ := no_flag_write_of_branch P hdv (by simpa using hd) hbr
      rw [memNext_flag _ _ _ _ (by decide), writeBackCC_of_not _ _ hnsr]
      exact ⟨rfl, hnagex, by rwa [← Bool.not_eq_true, Bool.and_eq_true_iff]⟩
    case leavesAgex =>
      rw [memNext_flag _ _ _ _ (by decide)] at hbr
      obtain ⟨hcc, hnmem, hnsr⟩ := hagex hv hbr
      exact ⟨by rw [cycleSr, writeBackCC_of_not _ _ hnsr, ← hcc]; rfl, by rwa [← Bool.not_eq_true, Bool.and_eq_true_iff]⟩

/-- Settles O15: the snapshot is the live flags when the branch leaves DE, and no flag write is ahead of it to change them. -/
theorem cycleKeepsBranchSnapshotsLive : Obligations.CycleKeepsBranchSnapshotsLive := by
  unfold Obligations.CycleKeepsBranchSnapshotsLive
  refine ⟨fun P s hs => cycle_keeps_branchSnapshots P hs, fun s hs hv hbr => ?_⟩
  rw [memBrCond, (hs.2 hv hbr).1]

/-- Settles O16: by the stalls of the cycle; a held queue fetches nothing. -/
theorem inFlightQueueAdvances : Obligations.InFlightQueueAdvances := by
  unfold Obligations.InFlightQueueAdvances
  intro P s
  unfold inFlight upstreamOfSr fetchedThisCycle
  cases hm : (cycleMem P s).signals.memStall with
  | true =>
    rw [cycle_mem_of_memStall P hm, cycle_agex_of_memStall P hm, cycle_de_of_memStall P hm,
      cycle_sr_v_of_memStall P hm, cycleLdPc_of_memStall P hm]
    simp
  | false =>
    rw [cycle_sr_v_of_go P hm, cycle_mem_of_go P hm, cycle_agex_of_go P hm]
    cases hd : (cycleDe P s).depStall with
    | true =>
      rw [cycle_de_of_depStall P hd, cycleLdPc_of_depStall P hd]
      simp [cycle_sr, srNext, memNext, agexNext]
    | false =>
      rw [cycle_de_of_go P hm hd]
      simp [cycle_sr, srNext, memNext, agexNext, nextSequential]

end Sys2Proof.Machine
end

section
/-! Values: the three flags of a value, an address sum as integer arithmetic, and the bytes of a word. -/

namespace Sys2Proof.Machine

open Bits

/-- A value is zero exactly as a two's-complement number. -/
theorem flagZ_iff (v : Word) : flagZ v = true ↔ v.toInt = 0 := by
  rw [flagZ, beq_iff_eq, ← BitVec.toInt_inj]
  rfl

theorem flagP_iff (v : Word) : flagP v = true ↔ 0 < v.toInt := by
  have hn := flagN_iff v
  have hz := flagZ_iff v
  rw [flagP, Bool.and_eq_true_iff, Bool.not_eq_true', Bool.not_eq_true', ← Bool.not_eq_true, ← Bool.not_eq_true, hn, hz]
  omega

/-- `setcc(v)` says the sign of `v` (43_stage_sr.md R152). -/
theorem flagsOf_ccOf (v : Word) : FlagsOf v (ccOf v) := ⟨flagN_iff v, flagZ_iff v, flagP_iff v⟩

/-- Adding a word to an address is adding its signed number modulo 2^16. -/
theorem add_toNat_eq_emod (base w : Word) : ((base + w).toNat : Int) = ((base.toNat : Int) + w.toInt) % 65536 := by
  have hw := w.isLt
  rw [BitVec.toInt_eq_toNat_cond, BitVec.toNat_add]
  split <;> omega

/-- Adding a word shifted left by 1 is adding twice its signed number modulo 2^16 (45_stage_agex.md R183). -/
theorem add_timesTwo_toNat_eq_emod (base w : Word) :
    ((base + timesTwo w).toNat : Int) = ((base.toNat : Int) + 2 * w.toInt) % 65536 := by
  have hw := w.isLt
  rw [BitVec.toInt_eq_toNat_cond, timesTwo, BitVec.toNat_add, BitVec.toNat_shiftLeft, Nat.shiftLeft_eq]
  split <;> omega

/-- A sign-extended field is the same number (40_bit_primitives.md R112). -/
theorem sext_toInt {n : Nat} (v : BitVec n) (h : 1 ≤ n ∧ n ≤ 16) : (sext v h).toInt = v.toInt :=
  BitVec.toInt_signExtend_of_le h.2

theorem byteAddress_toNat (base : Word) (off : BitVec 6) :
    ((byteAddress base off).toNat : Int) = ((base.toNat : Int) + off.toInt) % 65536 := by
  rw [byteAddress, add_toNat_eq_emod, sext_toInt]

theorem wordAddress_toNat (base : Word) (off : BitVec 6) :
    ((wordAddress base off).toNat : Int) = ((base.toNat : Int) + 2 * off.toInt) % 65536 := by
  rw [wordAddress, add_timesTwo_toNat_eq_emod, sext_toInt]

/-- A PC-relative address from the address of the instruction itself. -/
theorem pcRelative_toNat {n : Nat} (pc : Word) (off : BitVec n) (h : 1 ≤ n ∧ n ≤ 16) :
    ((pcRelative (pc + 2#16) off h).toNat : Int) = ((pc.toNat : Int) + 2 + 2 * off.toInt) % 65536 := by
  rw [pcRelative, add_timesTwo_toNat_eq_emod, sext_toInt, BitVec.toNat_add]
  have h2 : (2#16).toNat = 2 := rfl
  omega

/-- The low byte of a word, as a number. -/
theorem lowByte_toNat (v : Word) : (v.extractLsb' 0 8).toNat = v.toNat % 256 := by
  simp

/-- The high byte of a word, as a number. -/
theorem highByte_toNat (v : Word) : (v.extractLsb' 8 8).toNat = v.toNat / 256 := by
  have := v.isLt
  rw [BitVec.extractLsb'_toNat, Nat.shiftRight_eq_div_pow]
  omega

theorem lowByte_append (high low : Byte) : (high ++ low : Word).extractLsb' 0 8 = low := by
  rw [BitVec.extractLsb'_append_eq_right]

theorem highByte_append (high low : Byte) : (high ++ low : Word).extractLsb' 8 8 = high := by
  rw [BitVec.extractLsb'_append_eq_left]

end Sys2Proof.Machine
end

section
/-! Memory accesses by byte address (20_memory.md R52 to R59). -/

namespace Sys2Proof.Machine

open Bits

theorem toNat_eq_highAddr_iff (a c : Word) : c.toNat = highAddr (wordAddr a) ↔ c = a ||| 0x0001#16 := by
  rw [highAddr_wordAddr, ← oddAddress_toNat, BitVec.toNat_inj]

theorem toNat_eq_lowAddr_iff (a c : Word) : c.toNat = lowAddr (wordAddr a) ↔ c = a &&& 0xFFFE#16 := by
  rw [lowAddr_wordAddr, ← evenAddress_toNat, BitVec.toNat_inj]

/-- What a masked write does to the byte at a 16-bit address (R59). -/
theorem byte_writeMasked (m : Memory) (a v : Word) (lo hi : Bool) (c : Word) :
    (m.writeMasked (wordAddr a) v lo hi).byte c =
      if hi = true ∧ c = a ||| 0x0001#16 then v.extractLsb' 8 8
      else if lo = true ∧ c = a &&& 0xFFFE#16 then v.extractLsb' 0 8
      else m.byte c := by
  rw [Memory.byte, readAt_writeMasked]
  simp only [toNat_eq_highAddr_iff, toNat_eq_lowAddr_iff]
  rfl

/-- The two bytes of a word lie at different addresses. -/
theorem evenAddress_ne_oddAddress (a b : Word) : a &&& 0xFFFE#16 ≠ b ||| 0x0001#16 := by
  intro h
  have := congrArg BitVec.toNat h
  rw [evenAddress_toNat, oddAddress_toNat] at this
  omega

theorem evenAddress_of_bit {a : Word} (h : a.getLsbD 0 = false) : a &&& 0xFFFE#16 = a := by
  apply BitVec.eq_of_toNat_eq
  have hb := bit_zero_eq a
  rw [bit_eq, h, eq_comm, decide_eq_false_iff_not] at hb
  rw [evenAddress_toNat]
  omega

theorem oddAddress_of_bit {a : Word} (h : a.getLsbD 0 = true) : a ||| 0x0001#16 = a := by
  apply BitVec.eq_of_toNat_eq
  have hb := bit_zero_eq a
  rw [bit_eq, h, eq_comm, decide_eq_true_iff] at hb
  rw [oddAddress_toNat]
  omega

/-- A word store changes the two bytes of its word (R57). -/
theorem byte_memWriteWord (m : Memory) (a v c : Word) : (memWriteWord m a v).byte c =
    if c = a &&& 0xFFFE#16 then v.extractLsb' 0 8 else if c = a ||| 0x0001#16 then v.extractLsb' 8 8 else m.byte c := by
  rw [memWriteWord, byte_writeMasked]
  by_cases hodd : c = a ||| 0x0001#16
  · have heven : c ≠ a &&& 0xFFFE#16 := fun h => evenAddress_ne_oddAddress a a (h.symm.trans hodd)
    rw [if_pos ⟨rfl, hodd⟩, if_neg heven, if_pos hodd]
  · rw [if_neg fun h => hodd h.2]
    simp [hodd]

/-- A byte store changes the byte at its own address (R57). -/
theorem byte_memWriteByte (m : Memory) (a : Word) (v : Byte) (c : Word) :
    (memWriteByte m a v).byte c = if c = a then v else m.byte c := by
  rw [Memory.byte, readAt_memWriteByte]
  simp only [BitVec.toNat_inj]
  rfl

/-- The data port's write of a byte is the byte store: the byte stands in both halves and one plane is enabled
(44_stage_mem.md R162, R163). -/
theorem writeMasked_byte (m : Memory) (a : Word) (b : Byte) :
    m.writeMasked (wordAddr a) (b ++ b) (!bit a 0) (bit a 0) = memWriteByte m a b := by
  have hlow : range (b ++ b : Word) 7 0 = b := lowByte_append b b
  have hhigh : range (b ++ b : Word) 15 8 = b := highByte_append b b
  unfold memWriteByte
  cases bit a 0 with
  | true => simp [Memory.writeMasked, hhigh]
  | false => simp [Memory.writeMasked, hlow]

theorem memPayload_of_byte {l : MemLatch} (h : l.flag .dataSize = false) :
    memPayload l = l.aluResult.extractLsb' 0 8 ++ l.aluResult.extractLsb' 0 8 := by
  rw [memPayload, h]
  rfl

/-- A write that the data port answers is the store of the selected size; every other access leaves memory (R161 to R163). -/
theorem memStage_memory_cases (P : Params) (c : Nat) (m : Memory) (d : Nat) (l : MemLatch) :
    (memStage P c m d l).memory =
      if l.v = true ∧ l.flag .dcacheEn = true ∧ l.flag .dcacheRw = true ∧ P.dcacheReady c = true then
        if l.flag .dataSize = true then memWriteWord m l.address l.aluResult
        else memWriteByte m l.address (l.aluResult.extractLsb' 0 8)
      else m := by
  rw [memStage_memory, vDcacheEn]
  by_cases hacc : (l.v && l.flag .dcacheEn) = true ∧ P.dcacheReady c = true
  · obtain ⟨hen, hready⟩ := hacc
    obtain ⟨hv, hf⟩ := Bool.and_eq_true_iff.mp hen
    rw [if_pos ⟨hen, hready⟩]
    cases hrw : l.flag .dcacheRw with
    | false => simp [memWeLo, memWeHi, memWrites, hrw, Memory.writeMasked]
    | true =>
      rw [if_pos ⟨hv, hf, rfl, hready⟩]
      have hw : memWrites l = true := by simp [memWrites, vDcacheEn, hv, hf, hrw]
      cases hsize : l.flag .dataSize with
      | true => simp [memWeLo, memWeHi, memPayload, hw, hsize, memWriteWord]
      | false =>
        rw [memPayload_of_byte hsize, memWeLo, memWeHi, hw, hsize, Bool.true_and, Bool.true_and, Bool.false_or,
          Bool.false_or, writeMasked_byte]
        rfl
  · rw [if_neg hacc, if_neg]
    exact fun h => hacc ⟨Bool.and_eq_true_iff.mpr ⟨h.1, h.2.1⟩, h.2.2.2⟩

/-- The data a load brings: the word, or the byte sign-extended (R164). -/
theorem memData_of_access (P : Params) (c : Nat) (m : Memory) (d : Nat) {l : MemLatch} (hen : vDcacheEn l = true)
    (hready : P.dcacheReady c = true) : memData P c m d l =
      if l.flag .dataSize = true then memReadWord m l.address else sext (m.byte l.address) := by
  have hread : (memAccess P c m d l).readWord = memReadWord m l.address := by
    simp [memAccess, hen, dcacheAccess, hready, memReadWord]
  rw [memData, if_pos hen, hread, selectData]
  cases l.flag .dataSize with
  | true => rfl
  | false =>
    rw [← memReadByte_eq, memReadByte]
    have hlow : range (memReadWord m l.address) 7 0 = m.getLow (wordAddr l.address) := lowByte_append _ _
    have hhigh : range (memReadWord m l.address) 15 8 = m.getHigh (wordAddr l.address) := highByte_append _ _
    rw [hlow, hhigh]
    cases bit l.address 0 <;> rfl

end Sys2Proof.Machine
end

section
/-! The stages by the raw bits of the control slices (43_stage_sr.md, 44_stage_mem.md, 45_stage_agex.md). -/

namespace Sys2Proof.Machine

open Bits

/-- The selection by a 2-bit field is the selection by its two bits, the first the more significant
(41_control_store.md R125). -/
theorem ite_pair {α : Type} (b c : Bool) (x0 x1 x2 x3 : α) :
    (if BitVec.ofBool b ++ BitVec.ofBool c = 0#2 then x0 else if BitVec.ofBool b ++ BitVec.ofBool c = 1#2 then x1
      else if BitVec.ofBool b ++ BitVec.ofBool c = 2#2 then x2 else x3) =
      if b then (if c then x3 else x2) else (if c then x1 else x0) := by
  cases b <;> cases c <;> rfl

/-- `sr_reg_data` by SR_CS positions 0 and 1 (43_stage_sr.md R151). -/
theorem srRegData_eq (l : SrLatch) : srRegData l =
    if l.cs.getLsbD 0 then (if l.cs.getLsbD 1 then l.aluResult else l.npc)
    else (if l.cs.getLsbD 1 then l.data else l.address) :=
  ite_pair (l.cs.getLsbD 0) (l.cs.getLsbD 1) l.address l.data l.npc l.aluResult

theorem getElem_writeReg (regs : Vector Word 8) (r q : RegId) (v : Word) :
    (writeReg regs r v)[q.toNat]'(q.isLt) = if q = r then v else regs[q.toNat]'(q.isLt) := by
  simp only [writeReg, Vector.getElem_set, BitVec.toNat_inj, eq_comm]

theorem getElem_writeBackRegs (g : SrSignals) (regs : Vector Word 8) (q : RegId) :
    (writeBackRegs g regs)[q.toNat]'(q.isLt) =
      if g.vSrLdReg = true ∧ q = g.srRegId then g.srRegData else regs[q.toNat]'(q.isLt) := by
  unfold writeBackRegs
  cases g.vSrLdReg with
  | true => simp [getElem_writeReg]
  | false => simp

/-- A register after the edge (43_stage_sr.md R154). -/
theorem cycle_reg (P : Params) (s : State) (r : RegId) : (cycle P s).reg r =
    if (cycleSr s).vSrLdReg = true ∧ r = s.sr.drid then srRegData s.sr else s.reg r :=
  getElem_writeBackRegs (cycleSr s) s.regs r

/-- Settles O18: the write-back of the register file and of the flags, the enables by SR_CS positions 2 and 3. -/
theorem writeBackAtTheEdge : Obligations.WriteBackAtTheEdge := by
  unfold Obligations.WriteBackAtTheEdge
  intro P s
  rw [← srRegData_eq]
  refine ⟨fun r => ?reg, fun hv hcc => ?flags, fun h => ?noFlags⟩
  case reg =>
    simp only [cycle_reg, cycleSr_vSrLdReg_iff, and_assoc]
    rfl
  case flags =>
    rw [cycle_cc, cycleSr, writeBackCC_of_load _ _ ((cycleSr_vSrLdCc_iff s).mpr ⟨hv, hcc⟩)]
    exact ⟨flagsOf_ccOf _, ccOf_oneHot _⟩
  case noFlags =>
    rw [cycle_cc]
    exact writeBackCC_of_not _ _ (Bool.and_eq_false_iff.mpr h)

/-- Settles O20: the memory of a cycle is the store of the selected size, byte by byte, and FETCH reads it. -/
theorem memStageWritesEnabledBytes : Obligations.MemStageWritesEnabledBytes := by
  unfold Obligations.MemStageWritesEnabledBytes
  refine fun P s => ⟨fun a => ?_, cycleFetch_eq P s⟩
  have hmem : (cycle P s).memory =
      if s.mem.v = true ∧ s.mem.cs.getLsbD 4 = true ∧ s.mem.cs.getLsbD 5 = true ∧ P.dcacheReady s.cycleCount = true then
        if s.mem.cs.getLsbD 6 = true then memWriteWord s.memory s.mem.address s.mem.aluResult
        else memWriteByte s.memory s.mem.address (s.mem.aluResult.extractLsb' 0 8)
      else s.memory := memStage_memory_cases P s.cycleCount s.memory s.draws s.mem
  rw [hmem]
  split
  · split
    · exact byte_memWriteWord ..
    · exact byte_memWriteByte ..
  · rfl

theorem signals_memStall_iff (P : Params) (s : State) : (signals P s).mem.memStall = true ↔
    s.mem.v = true ∧ s.mem.cs.getLsbD 4 = true ∧ P.dcacheReady s.cycleCount = false := by
  refine (memStall_iff P s.cycleCount s.memory s.draws s.mem).trans ?_
  rw [vDcacheEn, Bool.and_eq_true_iff, and_assoc]
  rfl

theorem memStall_of_ready (P : Params) {s : State} (h : P.dcacheReady s.cycleCount = true) :
    (cycleMem P s).signals.memStall = false := by
  rw [Bool.eq_false_iff, Ne, cycleMem, memStall_iff, h]
  simp

theorem memStall_of_bubble (P : Params) {s : State} (h : s.mem.v = false) : (cycleMem P s).signals.memStall = false :=
  (memStage_of_bubble P s.cycleCount s.memory s.draws s.mem h).2.1

/-- The reference predicate of the data port (20_memory.md R59). -/
theorem referenceParams_dcacheReady (c : Nat) : referenceParams.dcacheReady c = true ↔ c % 9 ≠ 0 := by
  simp [referenceParams, dcacheReadyRef]

/-- Settles O21: an answered access brings the selected data, and MEM stalls for no other reason. -/
theorem memStageReadsSelectedData : Obligations.MemStageReadsSelectedData := by
  unfold Obligations.MemStageReadsSelectedData
  refine ⟨fun P s hv hen hready => ?_, signals_memStall_iff, referenceParams_dcacheReady⟩
  have hdata : (cycle P s).sr.data =
      if s.mem.cs.getLsbD 6 = true then memReadWord s.memory s.mem.address else sext (s.memory.byte s.mem.address) :=
    memData_of_access P s.cycleCount s.memory s.draws (Bool.and_eq_true_iff.mpr ⟨hv, hen⟩) hready
  refine ⟨by rw [cycle_sr_v_of_go P (memStall_of_ready P hready), hv], fun hword => ?_, fun hbyte => ?_⟩
  · rw [hdata, if_pos hword, memReadWord_toNat]
  · rw [hdata, hbyte, if_neg Bool.false_ne_true, sext_toInt]

theorem memBrCond_iff (l : MemLatch) : memBrCond l = true ↔
    (l.ir.getLsbD 11 = true ∧ l.cc.n = true) ∨ (l.ir.getLsbD 10 = true ∧ l.cc.z = true) ∨
      (l.ir.getLsbD 9 = true ∧ l.cc.p = true) := by
  simp only [memBrCond, branchCond, bit_eq, Bool.or_eq_true, Bool.and_eq_true, or_assoc]

/-- Settles O22: the priority of TRAP_OP over UNCOND_OP over BR_OP, all under the valid bit. -/
theorem memStageResolvesTransfers : Obligations.MemStageResolvesTransfers := by
  unfold Obligations.MemStageResolvesTransfers
  intro l
  rw [← memBrCond_iff]
  have hmux : memPcMux l = if !l.v then 0#2 else if l.cs.getLsbD 2 then 2#2
      else if l.cs.getLsbD 1 || (l.cs.getLsbD 0 && memBrCond l) then 1#2 else 0#2 := rfl
  rw [hmux]
  cases l.v with
  | false => simp
  | true =>
    cases l.cs.getLsbD 2 with
    | true => simp
    | false =>
      cases l.cs.getLsbD 1 with
      | true => simp
      | false => cases l.cs.getLsbD 0 <;> cases memBrCond l <;> simp

/-! AGEX by its raw positions. -/

theorem agexAddr2Raw_eq (l : AgexLatch) : agexAddr2Raw l =
    if l.cs.getLsbD 1 then (if l.cs.getLsbD 2 then sext (l.ir.extractLsb' 0 11) else sext (l.ir.extractLsb' 0 9))
    else (if l.cs.getLsbD 2 then sext (l.ir.extractLsb' 0 6) else 0x0000#16) :=
  ite_pair (l.cs.getLsbD 1) (l.cs.getLsbD 2) 0x0000#16 (sext (fieldOffset6 l.ir)) (sext (fieldPcOffset9 l.ir))
    (sext (fieldPcOffset11 l.ir))

/-- The offset operand as a signed number (45_stage_agex.md R182). -/
theorem agexAddr2Raw_toInt (l : AgexLatch) : (agexAddr2Raw l).toInt =
    if l.cs.getLsbD 1 then (if l.cs.getLsbD 2 then (l.ir.extractLsb' 0 11).toInt else (l.ir.extractLsb' 0 9).toInt)
    else (if l.cs.getLsbD 2 then (l.ir.extractLsb' 0 6).toInt else 0) := by
  rw [agexAddr2Raw_eq]
  simp only [apply_ite BitVec.toInt, sext_toInt]
  rfl

/-- Settles O23: the adder by `add_toNat_eq_emod` and its doubled form, the trap vector by `trapVectorAddress_toNat`. -/
theorem agexAddressSum : Obligations.AgexAddressSum := by
  unfold Obligations.AgexAddressSum
  intro l
  have haddr : agexAddress l =
      if l.cs.getLsbD 4 then
        (if l.cs.getLsbD 0 then l.sr1 else l.npc) +
          (if l.cs.getLsbD 3 then timesTwo (agexAddr2Raw l) else agexAddr2Raw l)
      else trapVectorAddress (l.ir.extractLsb' 0 8) := rfl
  refine ⟨fun hmux => ?adder, fun hmux => ?vector⟩
  case adder =>
    rw [haddr, if_pos hmux, ← agexAddr2Raw_toInt]
    cases l.cs.getLsbD 3 with
    | true => exact add_timesTwo_toNat_eq_emod _ _
    | false => exact add_toNat_eq_emod _ _
  case vector =>
    rw [haddr, hmux, if_neg Bool.false_ne_true, trapVectorAddress_toNat, lowByte_toNat]

theorem agexAluOut_eq (l : AgexLatch) : agexAluOut l =
    if l.cs.getLsbD 6 then (if l.cs.getLsbD 7 then agexOperandB l else l.sr1 ^^^ agexOperandB l)
    else (if l.cs.getLsbD 7 then l.sr1 &&& agexOperandB l else l.sr1 + agexOperandB l) :=
  ite_pair (l.cs.getLsbD 6) (l.cs.getLsbD 7) (l.sr1 + agexOperandB l) (l.sr1 &&& agexOperandB l)
    (l.sr1 ^^^ agexOperandB l) (agexOperandB l)

theorem shiftLeft_toNat (a : Word) (k : BitVec 4) : (shiftLeft a k).toNat = a.toNat * 2 ^ k.toNat % 65536 := by
  rw [shiftLeft, BitVec.toNat_shiftLeft, Nat.shiftLeft_eq]

theorem shiftRightLogical_toNat (a : Word) (k : BitVec 4) : (shiftRightLogical a k).toNat = a.toNat / 2 ^ k.toNat := by
  rw [shiftRightLogical, BitVec.toNat_ushiftRight, Nat.shiftRight_eq_div_pow]

theorem shiftRightArith_toInt (a : Word) (k : BitVec 4) :
    (shiftRightArith a k).toInt = a.toInt / (2 ^ k.toNat : Int) := by
  rw [shiftRightArith, BitVec.toInt_sshiftRight, Int.shiftRight_eq_div_pow]
  norm_cast

/-- Settles O24: the ALU by its two select bits, the shifter by IR[5:4]. -/
theorem agexResultValue : Obligations.AgexResultValue := by
  unfold Obligations.AgexResultValue
  intro l
  have hres : agexResult l = if l.cs.getLsbD 8 then agexAluOut l
      else shifter (l.ir.getLsbD 4) (l.ir.getLsbD 5) l.sr1 (l.ir.extractLsb' 0 4) := rfl
  have hb : (if l.cs.getLsbD 5 then (l.ir.extractLsb' 0 5).signExtend 16 else l.sr2) = agexOperandB l := rfl
  rw [hres, hb]
  refine ⟨fun halu => ?alu, fun hshf => ?shifter⟩
  case alu =>
    rw [if_pos halu, agexAluOut_eq]
    refine ⟨fun h6 h7 => ?_, fun h6 h7 i _ => ?_, fun h6 h7 i _ => ?_, fun h6 h7 => ?_⟩
    · simp only [h6, h7, if_neg Bool.false_ne_true, BitVec.toNat_add]
    · simp only [h6, h7, if_true, if_neg Bool.false_ne_true, BitVec.getLsbD_and]
    · simp only [h6, h7, if_true, if_neg Bool.false_ne_true, BitVec.getLsbD_xor]
    · simp only [h6, h7, if_true]
  case shifter =>
    rw [hshf, if_neg Bool.false_ne_true, shifter]
    refine ⟨fun h4 => ?_, fun h4 h5 => ?_, fun h4 h5 => ?_⟩
    · simp only [h4, if_neg Bool.false_ne_true, shiftLeft_toNat]
    · simp only [h4, h5, if_true, if_neg Bool.false_ne_true, shiftRightLogical_toNat]
    · simp only [h4, h5, if_true, shiftRightArith_toInt]

end Sys2Proof.Machine
end

section
/-! The stall table, the resolution of a transfer, and the distance of a dependency (47_hazard_stall.md R233 to R247). -/

namespace Sys2Proof.Machine

open Bits

/-- Settles O25: the three cases of the AGEX latch at an edge. -/
theorem agexLatchAdvancesOrHolds : Obligations.AgexLatchAdvancesOrHolds := by
  unfold Obligations.AgexLatchAdvancesOrHolds
  refine fun P s => ⟨fun hm => ?_, fun hm => ?_, fun hd hm => ?_⟩
  · exact cycle_agex_of_go P hm
  · exact ⟨cycle_agex_of_memStall P hm, cycle_de_of_memStall P hm⟩
  · refine ⟨?_, cycle_de_of_depStall P hd⟩
    have hd' : (cycleDe P s).depStall = true := hd
    rw [cycle_agex_v_of_go P hm, hd', Bool.not_true, Bool.and_false]

theorem cycle_pc_of_ldPc (P : Params) {s : State} (h : cycleLdPc P s = true) : (cycle P s).pc =
    newPc (memPcMux s.mem) (s.pc + 2#16) s.mem.address (cycleMem P s).signals.memData := by
  rw [cycle_pc, h]
  rfl

/-- Settles O28: `pc` is loaded with what `mem_pc_mux` selects, or held. -/
theorem pcUpdate : Obligations.PcUpdate := by
  unfold Obligations.PcUpdate
  refine fun P s => ⟨cycle_pc_of_not_ldPc P, fun hld hmux => ?_, fun hld hmux => ?_, fun hld hmux => ?_⟩
  all_goals
    rw [cycle_pc_of_ldPc P hld, show memPcMux s.mem = _ from hmux]
  · exact BitVec.toNat_add s.pc 2#16
  · rfl
  · rfl

/-- A bubble in MEM selects the sequential `pc` and raises no branch stall (44_stage_mem.md R168, R169). -/
theorem memPcMux_of_bubble {l : MemLatch} (h : l.v = false) : memPcMux l = 0#2 := by
  rw [memPcMux, h]
  rfl

theorem vMemBrStall_of_bubble (P : Params) {s : State} (h : s.mem.v = false) :
    (cycleMem P s).signals.vMemBrStall = false :=
  (memStage_of_bubble P s.cycleCount s.memory s.draws s.mem h).2.2.2.1

theorem vAgexBrStall_of_bubble {s : State} (h : s.agex.v = false) : (cycleAgex s).vAgexBrStall = false := by
  rw [Bool.eq_false_iff, Ne, vAgexBrStall_iff, h]
  simp

theorem vDeBrStall_of_bubble (P : Params) {s : State} (h : s.de.v = false) : (cycleDe P s).vDeBrStall = false := by
  rw [Bool.eq_false_iff, Ne, vDeBrStall_iff, h]
  simp

theorem memPcMux_one_or_two {l : MemLatch} (h : memPcMux l ≠ 0#2) : memPcMux l = 1#2 ∨ memPcMux l = 2#2 := by
  have h3 : memPcMux l ≠ 3#2 := (memStageResolvesTransfers l).2.2
  generalize memPcMux l = mux at h h3
  revert mux
  decide

/-- The value of `pc` and the DE latch when nothing stalls DE or MEM: loaded and filled together (46_stage_decode_fetch.md
R213, R214). -/
theorem cycle_fetch_held (P : Params) {s : State} (hm : (cycleMem P s).signals.memStall = false)
    (hd : (cycleDe P s).depStall = false) (hld : cycleLdPc P s = false) :
    (cycle P s).pc = s.pc ∧ (cycle P s).de.v = false := by
  rw [cycle_pc_of_not_ldPc P hld, cycle_de_of_go P hm hd, hld]
  exact ⟨rfl, rfl⟩

/-- A taken transfer that loads `pc` loads its target or the trap word, and drops the word fetched behind it (R212, R239). -/
theorem cycle_redirect (P : Params) {s : State} (hm : (cycleMem P s).signals.memStall = false)
    (hd : (cycleDe P s).depStall = false) (hbr : (cycleMem P s).signals.vMemBrStall = true)
    (hmux : memPcMux s.mem ≠ 0#2) (hld : cycleLdPc P s = true) :
    (cycle P s).pc = (if memPcMux s.mem = 1#2 then s.mem.address else (cycleMem P s).signals.memData) ∧
      (cycle P s).de.v = false := by
  rw [cycle_pc_of_ldPc P hld, cycle_de_of_go P hm hd, hbr]
  refine ⟨?_, Bool.and_false _⟩
  rcases memPcMux_one_or_two hmux with h1 | h2
  · rw [h1]; rfl
  · rw [h2]; rfl

/-- The rows of R237 in which neither MEM nor DE is held: what `pc` and the DE latch become. -/
theorem cycle_fetch_rows (P : Params) {s : State} (hm : (cycleMem P s).signals.memStall = false)
    (hd : (cycleDe P s).depStall = false) :
    if (cycleDe P s).vDeBrStall = true ∨ (cycleAgex s).vAgexBrStall = true then
      (cycle P s).pc = s.pc ∧ (cycle P s).de.v = false
    else if (cycleMem P s).signals.vMemBrStall = true ∧ memPcMux s.mem = 0#2 then
      (cycle P s).pc = s.pc ∧ (cycle P s).de.v = false
    else if (cycleMem P s).signals.vMemBrStall = true ∧ P.icacheReady s.cycleCount = true then
      (cycle P s).pc = (if memPcMux s.mem = 1#2 then s.mem.address else (cycleMem P s).signals.memData) ∧
        (cycle P s).de.v = false
    else if (cycleMem P s).signals.vMemBrStall = true then (cycle P s).pc = s.pc ∧ (cycle P s).de.v = false
    else if P.icacheReady s.cycleCount = false then
      (cycle P s).pc = s.pc ∧ (cycle P s).de.v = false ∧ (cycle P s).de.ir = 0xFEED#16
    else
      (cycle P s).pc = newPc (memPcMux s.mem) (s.pc + 2#16) s.mem.address (cycleMem P s).signals.memData ∧
        (cycle P s).de = ⟨true, (cycleFetch P s).1, s.pc + 2#16⟩ := by
  have hload := cycleLdPc_iff P s
  rw [hd, hm] at hload
  by_cases hbr : (cycleDe P s).vDeBrStall = true ∨ (cycleAgex s).vAgexBrStall = true
  · rw [if_pos hbr]
    rcases hbr with hbr | hbr
    · exact cycle_fetch_held P hm hd (cycleLdPc_of_deBrStall P hbr)
    · exact cycle_fetch_held P hm hd (cycleLdPc_of_agexBrStall P hbr)
  rw [if_neg hbr]
  rw [not_or, Bool.not_eq_true, Bool.not_eq_true] at hbr
  by_cases hnotTaken : (cycleMem P s).signals.vMemBrStall = true ∧ memPcMux s.mem = 0#2
  · rw [if_pos hnotTaken]
    exact cycle_fetch_held P hm hd (cycleLdPc_of_notTaken P hnotTaken.1 hnotTaken.2)
  rw [if_neg hnotTaken]
  cases hmemBr : (cycleMem P s).signals.vMemBrStall with
  | true =>
    have hmux : memPcMux s.mem ≠ 0#2 := fun h0 => hnotTaken ⟨hmemBr, h0⟩
    cases hready : P.icacheReady s.cycleCount with
    | true => exact cycle_redirect P hm hd hmemBr hmux (hload.mpr ⟨hready, rfl, rfl, hbr.2, hbr.1, .inr hmux⟩)
    | false => simpa using cycle_fetch_held P hm hd (cycleLdPc_of_not_ready P hready)
  | false =>
    cases hready : P.icacheReady s.cycleCount with
    | true =>
      have hld := hload.mpr ⟨hready, rfl, rfl, hbr.2, hbr.1, .inl hmemBr⟩
      rw [cycle_pc_of_ldPc P hld, cycle_de_of_go P hm hd, hld, hmemBr]
      simp
    | false =>
      obtain ⟨hpc, hv⟩ := cycle_fetch_held P hm hd (cycleLdPc_of_not_ready P hready)
      have hir : (cycle P s).de.ir = 0xFEED#16 := by
        rw [cycle_de_of_go P hm hd, cycleFetch_eq, icacheAccess_of_not_ready hready]
      simpa using ⟨hpc, hv, hir⟩

/-- Settles O29: the rows that hold MEM or DE, then `cycle_fetch_rows`. -/
theorem stallTable : Obligations.StallTable := by
  unfold Obligations.StallTable
  intro P s
  dsimp only
  split
  next hm =>
    exact ⟨cycle_pc_of_not_ldPc P (cycleLdPc_of_memStall P hm), cycle_de_of_memStall P hm, cycle_agex_of_memStall P hm,
      cycle_mem_of_memStall P hm, cycle_sr_v_of_memStall P hm⟩
  next hm =>
    rw [Bool.not_eq_true] at hm
    refine ⟨⟨cycle_mem_of_go P hm, cycle_sr_v_of_go P hm, rfl, rfl, rfl, rfl, rfl, rfl⟩, ?_⟩
    have hv := cycle_agex_v_of_go P hm
    have hir : (cycle P s).agex.ir = s.de.ir := by rw [cycle_agex_of_go P hm]; rfl
    split
    next hd =>
      replace hd : (cycleDe P s).depStall = true := hd
      rw [hd, Bool.not_true, Bool.and_false] at hv
      exact ⟨cycle_pc_of_not_ldPc P (cycleLdPc_of_depStall P hd), cycle_de_of_depStall P hd, hv, hir⟩
    next hd =>
      replace hd : (cycleDe P s).depStall = false := Bool.eq_false_iff.mpr hd
      rw [hd, Bool.not_false, Bool.and_true] at hv
      rw [signals_icacheR]
      exact ⟨hv, hir, cycle_fetch_rows P hm hd⟩

/-- With a transfer in MEM that moves on, nothing else is in the pipeline after the edge. -/
theorem inFlight_behind_transfer (P : Params) {s : State} (hs : NoYoungerBehindTransfer s)
    (hbr : (cycleMem P s).signals.vMemBrStall = true) : inFlight (cycle P s) = [(s.mem.ir, s.mem.npc)] := by
  obtain ⟨hv, hflag⟩ := (vMemBrStall_iff P s).mp hbr
  obtain ⟨hagex, hde⟩ := hs.2 hv hflag
  rw [inFlightQueueAdvances P s, upstreamOfSr, fetchedThisCycle, hv, hagex, hde, hbr]
  simp

/-- `pc` is loaded in the cycle in which a taken transfer is resolved and the instruction port answers. -/
theorem cycleLdPc_of_taken (P : Params) {s : State} (hs : NoYoungerBehindTransfer s)
    (hbr : (cycleMem P s).signals.vMemBrStall = true) (hmux : memPcMux s.mem ≠ 0#2)
    (hm : (cycleMem P s).signals.memStall = false) (hready : P.icacheReady s.cycleCount = true) :
    cycleLdPc P s = true := by
  obtain ⟨hv, hflag⟩ := (vMemBrStall_iff P s).mp hbr
  obtain ⟨hagex, hde⟩ := hs.2 hv hflag
  exact (cycleLdPc_iff P s).mpr ⟨hready, depStall_of_bubble P hde, hm, vAgexBrStall_of_bubble hagex,
    vDeBrStall_of_bubble P hde, .inr hmux⟩

/-- Settles O30: behind the transfer everything is a bubble, so `pc` is loaded and the fetched word is dropped. -/
theorem takenTransferRedirects : Obligations.TakenTransferRedirects := by
  unfold Obligations.TakenTransferRedirects
  intro P s hs hbr hmux hm hready
  refine ⟨?_, inFlight_behind_transfer P hs hbr⟩
  have hde := depStall_of_bubble P (hs.2 ((vMemBrStall_iff P s).mp hbr).1 ((vMemBrStall_iff P s).mp hbr).2).2
  rw [(cycle_redirect P hm hde hbr hmux (cycleLdPc_of_taken P hs hbr hmux hm hready)).1]
  show _ = if memPcMux s.mem = 2#2 then _ else _
  rcases memPcMux_one_or_two hmux with h1 | h2
  · rw [h1]; rfl
  · rw [h2]; rfl

theorem redirectLost_iff (P : Params) (s : State) : redirectLost P s = true ↔
    (cycleMem P s).signals.vMemBrStall = true ∧ memPcMux s.mem ≠ 0#2 ∧ (cycleMem P s).signals.memStall = false ∧
      P.icacheReady s.cycleCount = false := by
  simp only [redirectLost, Bool.and_eq_true, Bool.not_eq_true', branchTaken_iff, and_assoc]
  rfl

/-- Settles O31: the port's stall holds `pc` while the transfer moves on, and MEM is a bubble in the next cycle. -/
theorem lostRedirectFallsThrough : Obligations.LostRedirectFallsThrough := by
  unfold Obligations.LostRedirectFallsThrough
  intro P s hs hlost
  obtain ⟨hbr, -, hm, hnot⟩ := (redirectLost_iff P s).mp hlost
  obtain ⟨hv, hflag⟩ := (vMemBrStall_iff P s).mp hbr
  have hbubble : (cycle P s).mem.v = false := by
    rw [cycle_mem_of_go P hm]
    exact (hs.2 hv hflag).1
  exact ⟨cycle_pc_of_not_ldPc P (cycleLdPc_of_not_ready P hnot), inFlight_behind_transfer P hs hbr,
    by rw [cycle_sr_v_of_go P hm, hv], memPcMux_of_bubble hbubble, vMemBrStall_of_bubble P hbubble⟩

/-- Settles O32: the transfer is in DE, in AGEX and in MEM in the three cycles, and each holds FETCH back. -/
theorem transferBubblesFetch : Obligations.TransferBubblesFetch := by
  unfold Obligations.TransferBubblesFetch
  intro P s hde hbr hagex hmem hd hready
  replace hd : (cycleDe P s).depStall = false := hd
  have hm0 := memStall_of_bubble P hmem
  have hdeBr : (cycleDe P s).vDeBrStall = true := (vDeBrStall_iff P s).mpr ⟨hde, hbr⟩
  have hld0 := cycleLdPc_of_deBrStall P hdeBr
  rw [show cycles P 1 s = cycle P s from rfl, show cycles P 2 s = cycle P (cycle P s) from rfl,
    show cycles P 3 s = cycle P (cycle P (cycle P s)) from rfl]
  have hf0 : inFlight (cycle P s) = [(s.de.ir, s.de.npc)] := by
    rw [inFlightQueueAdvances P s, upstreamOfSr, fetchedThisCycle, hde, hagex, hmem, hld0]
    simp
  have hagex1 : (cycle P s).agex.v = true := by rw [cycle_agex_v_of_go P hm0, hde, hd]; rfl
  have hmem1 : (cycle P s).mem.v = false := by rw [cycle_mem_of_go P hm0]; exact hagex
  have hde1 : (cycle P s).de.v = false := cycle_de_v_behind_de P hm0 hd hdeBr
  have hagexIr : (cycle P s).agex.ir = s.de.ir ∧ (cycle P s).agex.npc = s.de.npc := by
    rw [cycle_agex_of_go P hm0]
    exact ⟨rfl, rfl⟩
  have hflag1 : (cycle P s).agex.flag .brStall = true := by
    rw [cycle_agex_of_go P hm0, agexNext_flag _ _ _ _ _ _ _ _ (by decide)]
    exact hbr
  have hm1 := memStall_of_bubble P hmem1
  have hagexBr := (vAgexBrStall_iff (cycle P s)).mpr ⟨hagex1, hflag1⟩
  have hld1 := cycleLdPc_of_agexBrStall P hagexBr
  have hf1 : inFlight (cycle P (cycle P s)) = [(s.de.ir, s.de.npc)] := by
    rw [inFlightQueueAdvances P (cycle P s), upstreamOfSr, fetchedThisCycle, hde1, hagex1, hmem1, hld1, hagexIr.1,
      hagexIr.2]
    simp
  have hmem2 : (cycle P (cycle P s)).mem.v = true := by rw [cycle_mem_of_go P hm1]; exact hagex1
  have hflag2 : (cycle P (cycle P s)).mem.flag .brStall = true := by
    rw [cycle_mem_of_go P hm1, memNext_flag _ _ _ _ (by decide)]
    exact hflag1
  have hyounger : NoYoungerBehindTransfer (cycle P s) :=
    ⟨fun _ _ => hde1, fun hv => absurd (hmem1.symm.trans hv) Bool.false_ne_true⟩
  have hf2 : inFlight (cycle P (cycle P (cycle P s))) = [(s.de.ir, s.de.npc)] := by
    rw [inFlight_behind_transfer P (cycle_keeps_noYounger P hyounger) ((vMemBrStall_iff P _).mpr ⟨hmem2, hflag2⟩),
      cycle_mem_of_go P hm1, ← hagexIr.1, ← hagexIr.2]
    rfl
  have hpc : (cycle P (cycle P s)).pc = s.pc := by
    rw [cycle_pc_of_not_ldPc P hld1, cycle_pc_of_not_ldPc P hld0]
  exact ⟨hpc, hf0, hf1, hf2, hagex1, hmem2, by rw [cycle_sr_v_of_go P (memStall_of_ready P hready), hmem2]⟩

/-! An instruction that leaves DE finds no writer of what it needs in AGEX, MEM or SR. -/

/-- After the edge, no instruction in MEM or SR writes a register that was not pending, and the register keeps its value. -/
theorem settled_of_not_pending (P : Params) {s : State} (hm : (cycleMem P s).signals.memStall = false) (r : RegId)
    (h : ¬pending (cycleAgex s) (cycleMem P s).signals (cycleSr s) r = true) :
    s.reg r = (cycle P s).reg r ∧
      ¬((cycle P s).mem.v = true ∧ (cycle P s).mem.cs.getLsbD 9 = true ∧ (cycle P s).mem.drid = r) ∧
      ¬((cycle P s).sr.v = true ∧ (cycle P s).sr.cs.getLsbD 2 = true ∧ (cycle P s).sr.drid = r) := by
  rw [cycle_pending_iff, not_or, not_or] at h
  obtain ⟨hagex, hmem, hsr⟩ := h
  refine ⟨?_, ?_, ?_⟩
  · rw [cycle_reg, if_neg]
    exact fun hw => hsr ⟨((cycleSr_vSrLdReg_iff s).mp hw.1).1, ((cycleSr_vSrLdReg_iff s).mp hw.1).2, hw.2.symm⟩
  · rw [cycle_mem_of_go P hm]
    refine fun ⟨hv, hld, hr⟩ => hagex ⟨hv, ?_, hr⟩
    exact (memNext_flag s.agex s.mem .ldReg (by decide) (by decide)).symm.trans hld
  · rw [cycle_sr_v_of_go P hm]
    refine fun ⟨hv, hld, hr⟩ => hmem ⟨hv, ?_, hr⟩
    exact (flagAt_srSlice s.mem.cs .ldReg (by decide) (by decide)).symm.trans hld

/-- Settles O33: `dep_stall = 0` says that none of the operands is pending. -/
theorem neededOperandsAreCommitted : Obligations.NeededOperandsAreCommitted := by
  unfold Obligations.NeededOperandsAreCommitted
  intro P s hm hv
  replace hm : (cycleMem P s).signals.memStall = false := hm
  rw [cycle_agex_v_of_go P hm, Bool.and_eq_true_iff, Bool.not_eq_true'] at hv
  obtain ⟨hde, hd⟩ := hv
  have hnot : ¬_ := fun h => Bool.eq_false_iff.mp hd ((depStallOf_iff _ _ _ _ _ _ _).mpr ⟨hde, h⟩)
  refine ⟨fun h1 => ?sr1, fun h2 => ?sr2, fun hbr => ?flags⟩
  case sr1 =>
    obtain ⟨hreg, hset⟩ := settled_of_not_pending P hm (sr1Id s.de.ir) fun hp => hnot (.inl ⟨h1, hp⟩)
    exact ⟨by rw [← hreg, cycle_agex_of_go P hm]; rfl, hset⟩
  case sr2 =>
    obtain ⟨hreg, hset⟩ := settled_of_not_pending P hm (sr2Id s.de.ir) fun hp => hnot (.inr (.inl ⟨h2, hp⟩))
    exact ⟨by rw [← hreg, cycle_agex_of_go P hm]; rfl, hset⟩
  case flags =>
    obtain ⟨hnagex, hnmem, hnsr⟩ := no_flag_write_of_branch P hde hd hbr
    refine ⟨by rw [cycle_cc, writeBackCC_of_not _ _ hnsr, cycle_agex_of_go P hm]; rfl, ?_, ?_⟩
    · rw [cycle_mem_of_go P hm]
      exact fun ⟨hv, hld⟩ => hnagex ⟨hv, (memNext_flag s.agex s.mem .ldCc (by decide) (by decide)).symm.trans hld⟩
    · rw [cycle_sr_v_of_go P hm]
      exact fun ⟨hv, hld⟩ => hnmem ⟨hv, (flagAt_srSlice s.mem.cs .ldCc (by decide) (by decide)).symm.trans hld⟩

/-! Bubbles. -/

/-- With every latch a bubble only the instruction port can hold `pc` (10_state.md R37). -/
theorem cycleLdPc_of_drained (P : Params) {s : State} (h : Drained s) :
    cycleLdPc P s = P.icacheReady s.cycleCount := by
  obtain ⟨hde, hagex, hmem, -⟩ := h
  rw [Bool.eq_iff_iff, cycleLdPc_iff]
  exact ⟨fun h => h.1, fun h => ⟨h, depStall_of_bubble P hde, memStall_of_bubble P hmem, vAgexBrStall_of_bubble hagex,
    vDeBrStall_of_bubble P hde, .inl (vMemBrStall_of_bubble P hmem)⟩⟩

theorem cycle_memory_of_bubble (P : Params) {s : State} (h : s.mem.v = false) : (cycle P s).memory = s.memory :=
  (memStage_of_bubble P s.cycleCount s.memory s.draws s.mem h).1

theorem inFlight_of_drained (P : Params) {s : State} (h : Drained s) :
    inFlight (cycle P s) = if P.icacheReady s.cycleCount then [(fetchWord s, s.pc + 2#16)] else [] := by
  have hld := cycleLdPc_of_drained P h
  obtain ⟨hde, hagex, hmem, -⟩ := h
  rw [inFlightQueueAdvances P s, upstreamOfSr, fetchedThisCycle, hde, hagex, hmem, hld, vMemBrStall_of_bubble P hmem,
    cycleFetch_eq, cycle_memory_of_bubble P hmem]
  cases hready : P.icacheReady s.cycleCount with
  | true => rw [icacheAccess_of_ready hready]; rfl
  | false => rfl

/-- Settles O35: no latch has an effect, so the cycle is the fetch alone. -/
theorem bubblesChangeNothing : Obligations.BubblesChangeNothing := by
  unfold Obligations.BubblesChangeNothing
  intro P s h
  have hflight := inFlight_of_drained P h
  have hld := cycleLdPc_of_drained P h
  obtain ⟨hde, hagex, hmem, hsr⟩ := h
  have hm := memStall_of_bubble P hmem
  have hd := depStall_of_bubble P hde
  refine ⟨cycle_regs_of_bubble P hsr, cycle_cc_of_bubble P hsr, cycle_memory_of_bubble P hmem, hm, hd, hld,
    fun hready => ?fetch, fun hnot => ?wait⟩
  case fetch =>
    rw [hready] at hld hflight
    exact ⟨by rw [cycle_pc_of_ldPc P hld, memPcMux_of_bubble hmem]; rfl, hflight⟩
  case wait =>
    rw [hnot] at hld
    obtain ⟨hpc, hde'⟩ := cycle_fetch_held P hm hd hld
    refine ⟨hpc, hde', ?_, ?_, ?_⟩
    · rw [cycle_agex_v_of_go P hm, hde]; rfl
    · rw [cycle_mem_of_go P hm]; exact hagex
    · rw [cycle_sr_v_of_go P hm, hmem]

end Sys2Proof.Machine
end

section
/-! The distance of a dependency (47_hazard_stall.md R246, R247): the producer walks through AGEX, MEM and SR while its
consumer waits in DE. -/

namespace Sys2Proof.Machine

open Bits

/-- DE's occupant needs what a producer with these enables and this destination writes (R233). -/
def NeedsResult (P : Params) (ir : Word) (ldReg ldCc : Bool) (drid : RegId) : Prop :=
  (flagAt 0 (P.ucode (controlRow ir)) .sr1Needed = true ∧ ldReg = true ∧ drid = sr1Id ir) ∨
    (flagAt 0 (P.ucode (controlRow ir)) .sr2Needed = true ∧ ldReg = true ∧ drid = sr2Id ir) ∨
    (flagAt 0 (P.ucode (controlRow ir)) .brOp = true ∧ ldCc = true)

/-- A need that one of the three older stages meets is a dependency stall. -/
theorem depStall_of_needs (P : Params) {s : State} {ldReg ldCc : Bool} {drid : RegId} (hv : s.de.v = true)
    (hneed : NeedsResult P s.de.ir ldReg ldCc drid)
    (hreg : ldReg = true → pending (cycleAgex s) (cycleMem P s).signals (cycleSr s) drid = true)
    (hcc : ldCc = true → ccPending (cycleAgex s) (cycleMem P s).signals (cycleSr s) = true) :
    (cycleDe P s).depStall = true := by
  refine (depStallOf_iff _ _ _ _ _ _ _).mpr ⟨hv, ?_⟩
  rcases hneed with ⟨hn, hld, hr⟩ | ⟨hn, hld, hr⟩ | ⟨hn, hld⟩
  · exact .inl ⟨hn, hr ▸ hreg hld⟩
  · exact .inr (.inl ⟨hn, hr ▸ hreg hld⟩)
  · exact .inr (.inr ⟨hn, hcc hld⟩)

theorem depStall_of_agex (P : Params) {s : State} (hv : s.de.v = true) (hagex : s.agex.v = true)
    (hneed : NeedsResult P s.de.ir (s.agex.flag .ldReg) (s.agex.flag .ldCc) s.agex.drid) :
    (cycleDe P s).depStall = true :=
  depStall_of_needs P hv hneed (fun h => (cycle_pending_iff P s _).mpr (.inl ⟨hagex, h, rfl⟩))
    fun h => (cycle_ccPending_iff P s).mpr (.inl ⟨hagex, h⟩)

theorem depStall_of_mem (P : Params) {s : State} (hv : s.de.v = true) (hmem : s.mem.v = true)
    (hneed : NeedsResult P s.de.ir (s.mem.flag .ldReg) (s.mem.flag .ldCc) s.mem.drid) :
    (cycleDe P s).depStall = true :=
  depStall_of_needs P hv hneed (fun h => (cycle_pending_iff P s _).mpr (.inr (.inl ⟨hmem, h, rfl⟩)))
    fun h => (cycle_ccPending_iff P s).mpr (.inr (.inl ⟨hmem, h⟩))

theorem depStall_of_sr (P : Params) {s : State} (hv : s.de.v = true) (hsr : s.sr.v = true)
    (hneed : NeedsResult P s.de.ir (flagAt srFirst s.sr.cs .ldReg) (flagAt srFirst s.sr.cs .ldCc) s.sr.drid) :
    (cycleDe P s).depStall = true :=
  depStall_of_needs P hv hneed (fun h => (cycle_pending_iff P s _).mpr (.inr (.inr ⟨hsr, h, rfl⟩)))
    fun h => (cycle_ccPending_iff P s).mpr (.inr (.inr ⟨hsr, h⟩))

/-- With AGEX, MEM and SR empty nothing is pending (R232). -/
theorem depStall_of_empty (P : Params) {s : State} (hagex : s.agex.v = false) (hmem : s.mem.v = false)
    (hsr : s.sr.v = false) : (cycleDe P s).depStall = false := by
  rw [Bool.eq_false_iff, Ne, cycleDe, deSignals, depStallOf_iff, cycle_pending_iff, cycle_pending_iff,
    cycle_ccPending_iff, hagex, hmem, hsr]
  simp

theorem cycle_agex_v_of_depStall (P : Params) {s : State} (hm : (cycleMem P s).signals.memStall = false)
    (hd : (cycleDe P s).depStall = true) : (cycle P s).agex.v = false := by
  rw [cycle_agex_v_of_go P hm, hd, Bool.not_true, Bool.and_false]

/-- What SR will select for an instruction that is in MEM, by the same field of its slice (41_control_store.md R124). -/
theorem srRegData_srNext (g : MemSignals) (l : MemLatch) : srRegData (srNext g l) =
    if pairAt memFirst l.cs .drValueMux = 0#2 then l.address else if pairAt memFirst l.cs .drValueMux = 1#2 then g.memData
    else if pairAt memFirst l.cs .drValueMux = 2#2 then l.npc else l.aluResult := by
  have h0 : (srNext g l).cs.getLsbD 0 = l.cs.getLsbD 7 := getLsbD_srSlice l.cs (by decide)
  have h1 : (srNext g l).cs.getLsbD 1 = l.cs.getLsbD 8 := getLsbD_srSlice l.cs (by decide)
  rw [srRegData_eq, h0, h1]
  exact (ite_pair (l.cs.getLsbD 7) (l.cs.getLsbD 8) l.address g.memData l.npc l.aluResult).symm

/-- The same for an instruction that is in AGEX. -/
theorem srRegData_of_agex (a : AgexLatch) (held : MemLatch) (g : MemSignals) :
    srRegData (srNext g (memNext false a held)) =
      if a.pair .drValueMux = 0#2 then agexAddress a else if a.pair .drValueMux = 1#2 then g.memData
      else if a.pair .drValueMux = 2#2 then a.npc else agexResult a := by
  have hmux : pairAt memFirst (memNext false a held).cs .drValueMux = a.pair .drValueMux := by
    rw [pairAt_eq, AgexLatch.pair, pairAt_eq]
    exact congrArg₂ (fun b c => BitVec.ofBool b ++ BitVec.ofBool c) (getLsbD_memSlice a.cs (by decide))
      (getLsbD_memSlice a.cs (by decide))
  rw [srRegData_srNext, hmux]
  rfl

/-- DE's occupant needs the result of an instruction with the AGEX latch `a`. -/
abbrev NeedsAgex (P : Params) (ir : Word) (a : AgexLatch) : Prop :=
  NeedsResult P ir (a.flag .ldReg) (a.flag .ldCc) a.drid

/-- The producer in AGEX: it goes into MEM, its consumer stays in DE and a bubble goes between them. -/
theorem wait_for_agex (P : Params) {s : State} (hde : s.de.v = true) (hagex : s.agex.v = true) (hmem : s.mem.v = false)
    (hneed : NeedsAgex P s.de.ir s.agex) :
    (cycleDe P s).depStall = true ∧ (cycle P s).de = s.de ∧ (cycle P s).agex.v = false ∧
      (cycle P s).mem = memNext false s.agex s.mem ∧ (cycle P s).memory = s.memory := by
  have hm := memStall_of_bubble P hmem
  have hd := depStall_of_agex P hde hagex hneed
  exact ⟨hd, cycle_de_of_depStall P hd, cycle_agex_v_of_depStall P hm hd, cycle_mem_of_go P hm,
    cycle_memory_of_bubble P hmem⟩

/-- The producer in MEM, answered: it goes into SR, and its consumer stays. -/
theorem wait_for_mem (P : Params) {s : State} {a : AgexLatch} {held : MemLatch} (hde : s.de.v = true) (hv : a.v = true)
    (hagex : s.agex.v = false) (hmem : s.mem = memNext false a held) (hneed : NeedsAgex P s.de.ir a)
    (hport : a.flag .dcacheEn = true → P.dcacheReady s.cycleCount = true) :
    (cycleDe P s).depStall = true ∧ (cycle P s).de = s.de ∧ (cycle P s).agex.v = false ∧ (cycle P s).mem.v = false ∧
      (cycle P s).sr = srNext (cycleMem P s).signals (memNext false a held) ∧ (cycle P s).sr.v = true := by
  have hvm : s.mem.v = true := by rw [hmem]; exact hv
  have hm : (cycleMem P s).signals.memStall = false := by
    rw [Bool.eq_false_iff, Ne, cycleMem, memStall_iff, vDcacheEn, hmem, memNext_flag _ _ _ _ (by decide),
      Bool.and_eq_true_iff]
    exact fun h => Bool.false_ne_true (h.2.symm.trans (hport h.1.2))
  have hd : (cycleDe P s).depStall = true := by
    refine depStall_of_mem P hde hvm ?_
    rw [hmem, memNext_flag _ _ _ _ (by decide), memNext_flag _ _ _ _ (by decide)]
    exact hneed
  refine ⟨hd, cycle_de_of_depStall P hd, cycle_agex_v_of_depStall P hm hd, ?_, by rw [cycle_sr, hmem],
    (cycle_sr_v_of_go P hm).trans hvm⟩
  rw [cycle_mem_of_go P hm]
  exact hagex

/-- The producer in SR: its value and its flags are written back, and its consumer stays one more cycle. -/
theorem wait_for_sr (P : Params) {s : State} {a : AgexLatch} {held : MemLatch} {g : MemSignals} (hde : s.de.v = true)
    (hagex : s.agex.v = false) (hmem : s.mem.v = false) (hsr : s.sr = srNext g (memNext false a held))
    (hv : s.sr.v = true) (hneed : NeedsAgex P s.de.ir a) :
    (cycleDe P s).depStall = true ∧ (cycle P s).de = s.de ∧ (cycle P s).agex.v = false ∧ (cycle P s).mem.v = false ∧
      (cycle P s).sr.v = false ∧ (a.flag .ldReg = true → (cycle P s).reg a.drid = srRegData s.sr) ∧
      (a.flag .ldCc = true → (cycle P s).cc = ccOf (srRegData s.sr)) := by
  have hm := memStall_of_bubble P hmem
  have hflag (f : ControlField) (hs : HasFlag srFirst 4 f) (hl : HasFlag memFirst 11 f) (ha : HasFlag agexFirst 20 f) :
      flagAt srFirst s.sr.cs f hs = a.flag f ha := by
    rw [hsr, ← memNext_flag a held f hl ha]
    exact flagAt_srSlice _ f hs hl
  have hreg := hflag .ldReg (by decide) (by decide) (by decide)
  have hcc := hflag .ldCc (by decide) (by decide) (by decide)
  have hdrid : s.sr.drid = a.drid := by rw [hsr]; rfl
  have hd : (cycleDe P s).depStall = true := depStall_of_sr P hde hv (by rw [hreg, hcc, hdrid]; exact hneed)
  refine ⟨hd, cycle_de_of_depStall P hd, cycle_agex_v_of_depStall P hm hd, by rw [cycle_mem_of_go P hm]; exact hagex,
    (cycle_sr_v_of_go P hm).trans hmem, fun hld => ?_, fun hld => ?_⟩
  · rw [cycle_reg, if_pos ⟨(cycleSr_vSrLdReg_iff s).mpr ⟨hv, hreg.trans hld⟩, hdrid.symm⟩]
  · rw [cycle_cc, cycleSr, writeBackCC_of_load _ _ ((cycleSr_vSrLdCc_iff s).mpr ⟨hv, hcc.trans hld⟩)]

/-- What an answered load brings, for the instruction that was in AGEX. -/
theorem memData_of_agex (P : Params) {s : State} {a : AgexLatch} {held : MemLatch} (hv : a.v = true)
    (hmem : s.mem = memNext false a held) (hen : a.flag .dcacheEn = true) (hready : P.dcacheReady s.cycleCount = true) :
    (cycleMem P s).signals.memData = if a.flag .dataSize = true then memReadWord s.memory (agexAddress a)
      else sext (s.memory.byte (agexAddress a)) := by
  have hload : vDcacheEn s.mem = true := by
    rw [vDcacheEn, hmem, memNext_flag _ _ _ _ (by decide), hen]
    exact (Bool.and_true _).trans hv
  refine (memData_of_access P s.cycleCount s.memory s.draws hload hready).trans ?_
  rw [hmem, memNext_flag _ _ _ _ (by decide)]
  rfl

/-- Settles O34: a stall while the producer is in AGEX, in MEM and in SR; then its value is in the register file and its
flags are the live ones. -/
theorem adjacentDependencyStallsThreeCycles : Obligations.AdjacentDependencyStallsThreeCycles := by
  unfold Obligations.AdjacentDependencyStallsThreeCycles
  intro P s hde hagex hmem hsr
  dsimp only
  intro hneed hport
  obtain ⟨hd0, hde1, hagex1, hmem1, hmemory1⟩ := wait_for_agex P hde hagex hmem hneed
  rw [← hde1] at hde hneed
  obtain ⟨hd1, hde2, hagex2, hmem2, hsr2, hv2⟩ := wait_for_mem P hde hagex hagex1 hmem1 hneed hport
  rw [← hde2] at hde hneed
  obtain ⟨hd2, hde3, hagex3, hmem3, hsr3, hreg, hcc⟩ := wait_for_sr P hde hagex2 hmem2 hsr2 hv2 hneed
  have hm3 := memStall_of_bubble P hmem3
  have hd3 := depStall_of_empty P hagex3 hmem3 hsr3
  have hstays : (cycle P (cycle P (cycle P s))).de = s.de := by rw [hde3, hde2, hde1]
  have hload (hen : s.agex.flag .dcacheEn = true) := memData_of_agex P hagex hmem1 hen (hport hen)
  rw [hmemory1] at hload
  have hvalue := srRegData_of_agex s.agex s.mem (cycleMem P (cycle P s)).signals
  rw [← hsr2] at hvalue
  refine ⟨hd0, hd1, hd2, hd3, ?_, ?_, srRegData (cycle P (cycle P s)).sr, fun h => ?_, fun h hen hword => ?_,
    fun h hen hbyte => ?_, fun h => ?_, fun h => ?_, fun hld hr => ?_, fun hld hr => ?_, fun hld => ?_⟩
  · exact (cycle_agex_v_of_go P hm3).trans (by rw [hd3, hde3, hde]; rfl)
  · exact (congrArg AgexLatch.ir (cycle_agex_of_go P hm3)).trans (congrArg DeLatch.ir hstays)
  · rw [hvalue, if_pos h]
  · rw [hvalue, h, if_neg (by decide), if_pos rfl, hload hen, if_pos hword, memReadWord_toNat]
  · rw [hvalue, h, if_neg (by decide), if_pos rfl, hload hen, hbyte, if_neg Bool.false_ne_true, sext_toInt]
  · simp [hvalue, h]
  · simp [hvalue, h]
  · refine (congrArg AgexLatch.sr1 (cycle_agex_of_go P hm3)).trans ?_
    rw [← hreg hld, hr, hstays]
    rfl
  · refine (congrArg AgexLatch.sr2 (cycle_agex_of_go P hm3)).trans ?_
    rw [← hreg hld, hr, hstays]
    rfl
  · have hflags : (cycles P 4 s).agex.cc = _ := congrArg AgexLatch.cc (cycle_agex_of_go P hm3)
    rw [hflags]
    exact (hcc hld).symm ▸ flagsOf_ccOf _

end Sys2Proof.Machine
end

section
/-! The instructions (48_isa_operate.md, 49_isa_memory_control.md): what each shared operation does and leaves, then the value
of each instruction. -/

namespace Sys2Proof.Machine

open Bits

section
variable {i : Instr} {s : State}

/-- A result goes to its register with its flags, `pc` moves on, and nothing else changes (48_isa_operate.md R250). -/
theorem exists_of_writeResult {dr : RegId} {v : Word} (hexec : exec i s = .next (s.writeResult dr v))
    (Q : Word → Prop) (hv : Q v) : ∃ t, exec i s = .next t ∧ Q (t.reg dr) ∧ FlagsOf (t.reg dr) t.cc ∧
      t.pc = s.pc + 2#16 ∧ KeepsRegsBut dr s t ∧ KeepsMemory s t ∧ KeepsPipeline s t := by
  have hdr : (s.writeResult dr v).reg dr = v := reg_setReg_self s dr v
  refine ⟨_, hexec, by rwa [hdr], by rw [hdr]; exact flagsOf_ccOf v, rfl, fun r hr => reg_setReg_of_ne s dr r v hr,
    fun a => rfl, ?_⟩
  exact ⟨rfl, rfl, rfl, rfl, rfl, rfl, rfl, rfl⟩

/-- `pc` alone is written (49_isa_memory_control.md R275 to R278). -/
theorem exists_of_setPc {t : Word} (hexec : exec i s = .next (s.setPc t)) (Q : Word → Prop) (ht : Q t) :
    ∃ u, exec i s = .next u ∧ Q u.pc ∧ u.cc = s.cc ∧ KeepsRegs s u ∧ KeepsMemory s u ∧ KeepsPipeline s u :=
  ⟨_, hexec, ht, rfl, fun _ => rfl, fun _ => rfl, rfl, rfl, rfl, rfl, rfl, rfl, rfl, rfl⟩

/-- A call links through R7 and jumps, and a RET executed next returns behind it (R279, R280, 60_exceptions.md R306). -/
theorem exists_of_callTo {t : Word} (hexec : exec i s = .next (s.callTo t)) (Q : Word → Prop) (ht : Q t) :
    ∃ c u, exec i s = .next c ∧ c.reg 7#3 = s.pc + 2#16 ∧ Q c.pc ∧ c.cc = s.cc ∧
      KeepsRegsBut 7#3 s c ∧ KeepsMemory s c ∧ KeepsPipeline s c ∧ exec .ret c = .next u ∧ u.pc = s.pc + 2#16 :=
  ⟨_, _, hexec, reg_setReg_self s 7#3 _, ht, rfl, fun r hr => reg_setReg_of_ne s 7#3 r _ hr, fun _ => rfl,
    ⟨rfl, rfl, rfl, rfl, rfl, rfl, rfl, rfl⟩, exec_ret _, reg_setReg_self s 7#3 _⟩

end

/-- Settles O46: the sum as a number, the logical results bit by bit. -/
theorem registerOperateResults : Obligations.RegisterOperateResults := by
  unfold Obligations.RegisterOperateResults
  intro s dr sr1 sr2
  refine ⟨?add, ?and, ?xor⟩
  case add =>
    exact exists_of_writeResult (exec_addReg s dr sr1 sr2)
      (fun v => v.toNat = ((s.reg sr1).toNat + (s.reg sr2).toNat) % 65536) (BitVec.toNat_add ..)
  case and =>
    exact exists_of_writeResult (exec_andReg s dr sr1 sr2)
      (fun v => ∀ i < 16, v.getLsbD i = ((s.reg sr1).getLsbD i && (s.reg sr2).getLsbD i))
      fun i _ => BitVec.getLsbD_and
  case xor =>
    exact exists_of_writeResult (exec_xorReg s dr sr1 sr2)
      (fun v => ∀ i < 16, v.getLsbD i = ((s.reg sr1).getLsbD i ^^ (s.reg sr2).getLsbD i))
      fun i _ => BitVec.getLsbD_xor

/-- The sign bit of an immediate fills the bits above it (48_isa_operate.md R252). -/
theorem getLsbD_sext_imm5 (imm5 : BitVec 5) {i : Nat} (h : i < 16) :
    (imm5.signExtend 16).getLsbD i = imm5.getLsbD (min i 4) := by
  rw [BitVec.getLsbD_signExtend, decide_eq_true h, Bool.true_and, BitVec.msb_eq_getLsbD_last]
  split
  · rw [min_eq_left (by omega)]
  · rw [min_eq_right (by omega)]

theorem xor_ones_toNat (v : Word) : (v ^^^ 0xFFFF#16).toNat = 65535 - v.toNat := by
  have h : v ^^^ 0xFFFF#16 = ~~~v := BitVec.xor_allOnes
  rw [h, BitVec.toNat_not]

/-- Settles O47. -/
theorem immediateOperateResults : Obligations.ImmediateOperateResults := by
  unfold Obligations.ImmediateOperateResults
  intro s dr sr1 imm5
  refine ⟨?add, ?and, ?xor, ?not⟩
  case add =>
    refine exists_of_writeResult (exec_addImm s dr sr1 imm5)
      (fun v => (v.toNat : Int) = (((s.reg sr1).toNat : Int) + imm5.toInt) % 65536) ?_
    rw [add_toNat_eq_emod, BitVec.toInt_signExtend_of_le (by decide)]
  case and =>
    refine exists_of_writeResult (exec_andImm s dr sr1 imm5)
      (fun v => ∀ i < 16, v.getLsbD i = ((s.reg sr1).getLsbD i && imm5.getLsbD (min i 4))) fun i hi => ?_
    rw [BitVec.getLsbD_and, getLsbD_sext_imm5 imm5 hi]
  case xor =>
    refine exists_of_writeResult (exec_xorImm s dr sr1 imm5)
      (fun v => ∀ i < 16, v.getLsbD i = ((s.reg sr1).getLsbD i ^^ imm5.getLsbD (min i 4))) fun i hi => ?_
    rw [BitVec.getLsbD_xor, getLsbD_sext_imm5 imm5 hi]
  case not =>
    exact exists_of_writeResult (exec_notReg s dr sr1) (fun v => v.toNat = 65535 - (s.reg sr1).toNat)
      (xor_ones_toNat _)

/-- Settles O48: the three shifts of AGEX (45_stage_agex.md R187). -/
theorem shiftResults : Obligations.ShiftResults := by
  unfold Obligations.ShiftResults
  intro s dr sr k
  refine ⟨?left, ?logical, ?arith⟩
  case left =>
    exact exists_of_writeResult (exec_lshf s dr sr k)
      (fun v => v.toNat = (s.reg sr).toNat * 2 ^ k.toNat % 65536) (shiftLeft_toNat (s.reg sr) k)
  case logical =>
    exact exists_of_writeResult (exec_rshfl s dr sr k)
      (fun v => v.toNat = (s.reg sr).toNat / 2 ^ k.toNat) (shiftRightLogical_toNat (s.reg sr) k)
  case arith =>
    exact exists_of_writeResult (exec_rshfa s dr sr k)
      (fun v => v.toInt = (s.reg sr).toInt / (2 ^ k.toNat : Int)) (shiftRightArith_toInt (s.reg sr) k)

/-- Settles O49: a PC-relative sum, written without the flags. -/
theorem leaResult : Obligations.LeaResult := by
  unfold Obligations.LeaResult
  intro s dr off
  refine ⟨_, exec_lea s dr off, ?_, rfl, rfl, fun r hr => reg_setReg_of_ne s dr r _ hr, fun a => rfl, ?_⟩
  · rw [show (s.writeAddress dr (pcRelative (s.pc + 2#16) off)).reg dr = _ from reg_setReg_self s dr _]
    exact pcRelative_toNat s.pc off _
  · exact ⟨rfl, rfl, rfl, rfl, rfl, rfl, rfl, rfl⟩

/-- Settles O50: the byte by its own address, the word by its two bytes. -/
theorem loadResults : Obligations.LoadResults := by
  unfold Obligations.LoadResults
  intro s dr baseR off
  refine ⟨⟨byteAddress (s.reg baseR) off, ?byte⟩, ⟨wordAddress (s.reg baseR) off, ?word⟩⟩
  case byte =>
    obtain ⟨t, hexec, hv, hrest⟩ := exists_of_writeResult (exec_ldb s dr baseR off)
      (fun v => v.toInt = (s.memory.byte (byteAddress (s.reg baseR) off)).toInt)
      (by rw [BitVec.toInt_signExtend_of_le (by decide), memReadByte_eq])
    exact ⟨t, byteAddress_toNat _ _, hexec, hv, hrest⟩
  case word =>
    obtain ⟨t, hexec, hv, hrest⟩ := exists_of_writeResult (exec_ldw s dr baseR off)
      (fun v => v.toNat = 256 * (s.memory.byte (wordAddress (s.reg baseR) off ||| 0x0001#16)).toNat +
        (s.memory.byte (wordAddress (s.reg baseR) off &&& 0xFFFE#16)).toNat) (memReadWord_toNat _ _)
    exact ⟨t, wordAddress_toNat _ _, hexec, hv, hrest⟩

/-- Settles O51: the stores by `byte_memWriteByte` and `byte_memWriteWord`. -/
theorem storeResults : Obligations.StoreResults := by
  unfold Obligations.StoreResults
  intro s sr baseR off
  refine ⟨⟨_, exec_stb s sr baseR off, byteAddress_toNat _ _, ?byte, fun c hc => ?byteFrame, rfl, rfl, fun r => rfl,
      rfl, rfl, rfl, rfl, rfl, rfl, rfl, rfl⟩,
    ⟨_, exec_stw s sr baseR off, wordAddress_toNat _ _, ?low, ?high, fun c hlow hhigh => ?wordFrame, rfl, rfl,
      fun r => rfl, rfl, rfl, rfl, rfl, rfl, rfl, rfl, rfl⟩⟩
  case byte =>
    rw [store_eq, setPc_memory, setMemory_memory, byte_memWriteByte, if_pos rfl, lowByte_toNat]
  case byteFrame => rw [store_eq, setPc_memory, setMemory_memory, byte_memWriteByte, if_neg hc]
  case low => rw [store_eq, setPc_memory, setMemory_memory, byte_memWriteWord, if_pos rfl, lowByte_toNat]
  case high =>
    rw [store_eq, setPc_memory, setMemory_memory, byte_memWriteWord, if_neg (evenAddress_ne_oddAddress _ _).symm,
      if_pos rfl, highByte_toNat]
  case wordFrame => rw [store_eq, setPc_memory, setMemory_memory, byte_memWriteWord, if_neg hlow, if_neg hhigh]

theorem branchCond_iff (n z p : Bool) (cc : CC) : branchCond n z p cc = true ↔
    (n = true ∧ cc.n = true) ∨ (z = true ∧ cc.z = true) ∨ (p = true ∧ cc.p = true) := by
  simp only [branchCond, Bool.or_eq_true, Bool.and_eq_true, or_assoc]

/-- Settles O52: the branch test, then the target or NPC. -/
theorem branchResults : Obligations.BranchResults := by
  unfold Obligations.BranchResults
  intro s n z p off
  refine ⟨?br, ?nop⟩
  case br =>
    rw [← branchCond_iff]
    refine ⟨_, exec_br s n z p off, fun htaken => ?_, fun hnot => ?_, rfl, fun r => rfl, fun a => rfl, rfl, rfl, rfl, rfl,
      rfl, rfl, rfl, rfl⟩
    · rw [branchIf_eq, setPc_pc, if_pos htaken, pcRelative_toNat]
    · rw [branchIf_eq, setPc_pc, if_neg hnot]
  case nop => exact exists_of_setPc (exec_nop s) (fun pc => pc = s.pc + 2#16) rfl

/-- Settles O53. -/
theorem jumpResults : Obligations.JumpResults := by
  unfold Obligations.JumpResults
  exact fun s baseR => ⟨exists_of_setPc (exec_jmp s baseR) (fun pc => pc = s.reg baseR) rfl,
    exists_of_setPc (exec_ret s) (fun pc => pc = s.reg 7#3) rfl⟩

/-- Settles O54: JSRR's target is read before R7 is written. -/
theorem callResults : Obligations.CallResults := by
  unfold Obligations.CallResults
  exact fun s off baseR =>
    ⟨exists_of_callTo (exec_jsr s off)
        (fun pc => (pc.toNat : Int) = ((s.pc.toNat : Int) + 2 + 2 * off.toInt) % 65536) (pcRelative_toNat s.pc off _),
      exists_of_callTo (exec_jsrr s baseR) (fun pc => pc = s.reg baseR) rfl⟩

/-- The word at an even address by its two bytes. -/
theorem memReadWord_toNat_of_even (m : Memory) {a : Word} (h : a.toNat % 2 = 0) :
    (memReadWord m a).toNat = 256 * (m.byte (a + 1#16)).toNat + (m.byte a).toNat := by
  have heven : a &&& 0xFFFE#16 = a := BitVec.eq_of_toNat_eq (by rw [evenAddress_toNat]; omega)
  have hodd : a ||| 0x0001#16 = a + 1#16 := by
    have := a.isLt
    apply BitVec.eq_of_toNat_eq
    rw [oddAddress_toNat, BitVec.toNat_add, BitVec.toNat_ofNat]
    omega
  rw [memReadWord_toNat, heven, hodd]

/-- The word a trap jumps to (45_stage_agex.md R184). -/
theorem trapTarget_toNat (m : Memory) (v : BitVec 8) : (memReadWord m (trapVectorAddress v)).toNat =
    256 * (m.byte (trapVectorAddress v + 1#16)).toNat + (m.byte (trapVectorAddress v)).toNat :=
  memReadWord_toNat_of_even m (by rw [trapVectorAddress_toNat]; omega)

/-- Settles O55: TRAP is a call through its vector, HALT the one through 0x25. -/
theorem trapResults : Obligations.TrapResults := by
  unfold Obligations.TrapResults
  intro s vec
  constructor
  · obtain ⟨t, u, hexec, hlink, hpc, hrest⟩ := exists_of_callTo (exec_trap s vec)
      (fun pc => pc.toNat = 256 * (s.memory.byte (trapVectorAddress vec + 1#16)).toNat +
        (s.memory.byte (trapVectorAddress vec)).toNat) (trapTarget_toNat _ _)
    exact ⟨trapVectorAddress vec, t, u, trapVectorAddress_toNat vec, hexec, hlink, hpc, hrest⟩
  · obtain ⟨t, u, hexec, hlink, hpc, hcc, hregs, hmem, hpipe, -⟩ := exists_of_callTo (exec_halt s)
      (fun pc => pc.toNat = 256 * (s.memory.byte 0x004B#16).toNat + (s.memory.byte 0x004A#16).toNat)
      (trapTarget_toNat s.memory 0x25#8)
    exact ⟨t, hexec, hlink, hpc, hcc, hregs, hmem, hpipe⟩

/-- Settles O56. -/
theorem noFunctionOpcodes : Obligations.NoFunctionOpcodes := by
  unfold Obligations.NoFunctionOpcodes
  intro i s hi
  have hexec : exec i s = .next (s.setPc (s.pc + 2#16)) := by
    rcases hi with rfl | rfl | rfl
    · exact exec_rti s
    · exact exec_reserved1010 s
    · exact exec_reserved1011 s
  exact exists_of_setPc hexec (fun pc => pc = s.pc + 2#16) rfl

/-! ### Sequences of instructions -/

theorem execAll_cons {i : Instr} {s t : State} (h : exec i s = .next t) (rest : List Instr) :
    execAll (i :: rest) s = execAll rest t := by
  rw [execAll, h]

theorem execAll_singleton {i : Instr} {s t : State} (h : exec i s = .next t) : execAll [i] s = .next t :=
  execAll_cons h []

/-- What a register reads as after a result was written to one. -/
theorem reg_writeResult (s : State) (dr r : RegId) (v : Word) :
    (s.writeResult dr v).reg r = if r = dr then v else s.reg r := reg_setReg s dr r v

@[simp] theorem reg_writeResult_self (s : State) (dr : RegId) (v : Word) : (s.writeResult dr v).reg dr = v :=
  reg_setReg_self s dr v

/-- The ADD of a register to itself, `n` times, doubles it `n` times (48_isa_operate.md R263). -/
theorem execAll_replicate_double (d : RegId) (n : Nat) (s : State) :
    ∃ u, execAll (List.replicate n (.addReg d d d)) s = .next u ∧ u.reg d = s.reg d <<< n := by
  induction n generalizing s with
  | zero => exact ⟨s, rfl, (BitVec.shiftLeft_zero _).symm⟩
  | succ n ih =>
    obtain ⟨u, hu, hreg⟩ := ih (s.writeResult d (s.reg d + s.reg d))
    refine ⟨u, by rw [List.replicate_succ, execAll_cons (exec_addReg s d d d), hu], ?_⟩
    have hdouble : s.reg d + s.reg d = s.reg d <<< 1 := by
      rw [BitVec.shiftLeft_eq_mul_twoPow, ← BitVec.mul_two]
      rfl
    rw [hreg, reg_writeResult_self, hdouble, ← BitVec.shiftLeft_add, Nat.add_comm]

theorem xor_ones_xor_ones (v : Word) : v ^^^ 0xFFFF#16 ^^^ 0xFFFF#16 = v := by
  rw [BitVec.xor_assoc, BitVec.xor_self, BitVec.xor_zero]

/-- `NOT a + a + 1 = 0` modulo 2^16. -/
theorem not_add_self_add_one (v : Word) : (v ^^^ 0xFFFF#16) + v + (1#5).signExtend 16 = 0#16 := by
  have hv := v.isLt
  apply BitVec.eq_of_toNat_eq
  rw [BitVec.toNat_add, BitVec.toNat_add, xor_ones_toNat, show ((1#5).signExtend 16).toNat = 1 from rfl,
    BitVec.toNat_ofNat]
  omega

/-- Shifting left and back clears the bits shifted out. -/
theorem shiftLeft_shiftRight (v : Word) (k : Nat) : v <<< k >>> k = v &&& (0xFFFF#16 >>> k) := by
  apply BitVec.eq_of_getLsbD_eq
  intro i hi
  have hones : (0xFFFF#16).getLsbD (k + i) = decide (k + i < 16) := BitVec.getLsbD_allOnes
  rw [BitVec.getLsbD_ushiftRight, BitVec.getLsbD_shiftLeft, BitVec.getLsbD_and, BitVec.getLsbD_ushiftRight, hones]
  simp [Bool.and_comm]

/-- Settles O57: commutativity from the operations', the compositions through `execAll`. -/
theorem operateLaws : Obligations.OperateLaws := by
  unfold Obligations.OperateLaws
  intro s d a b k
  refine ⟨?add, ?and, ?xor, ?notNot, fun hne => ?negate, ?shifts, fun hsign => ?arith, ?double⟩
  case add => rw [exec_addReg, exec_addReg, BitVec.add_comm]
  case and => rw [exec_andReg, exec_andReg, BitVec.and_comm]
  case xor => rw [exec_xorReg, exec_xorReg, BitVec.xor_comm]
  case notNot =>
    refine ⟨_, (execAll_cons (exec_notReg s d a) _).trans (execAll_singleton (exec_notReg _ d d)), ?_⟩
    rw [reg_writeResult_self, reg_writeResult_self, xor_ones_xor_ones]
  case negate =>
    refine ⟨_, (execAll_cons (exec_notReg s d a) _).trans ((execAll_cons (exec_addReg _ d d a) _).trans
      (execAll_singleton (exec_addImm _ d d 1))), ?_⟩
    have ha : (s.writeResult d (s.reg a ^^^ 0xFFFF#16)).reg a = s.reg a := by
      rw [reg_writeResult, if_neg hne.symm]
    rw [reg_writeResult_self, reg_writeResult_self, reg_writeResult_self, ha]
    have hz := not_add_self_add_one (s.reg a)
    refine ⟨hz, ?_⟩
    show ccOf ((s.reg a ^^^ 0xFFFF#16) + s.reg a + (1#5).signExtend 16) = _
    rw [hz]
    decide
  case shifts =>
    refine ⟨_, (execAll_cons (exec_lshf s d a k) _).trans (execAll_singleton (exec_rshfl _ d d k)), ?_⟩
    rw [reg_writeResult_self, reg_writeResult_self, shiftLeft_shiftRight]
  case arith => rw [exec_rshfa, exec_rshfl, BitVec.sshiftRight_eq_of_msb_false hsign]
  case double =>
    obtain ⟨u, hu, hreg⟩ := execAll_replicate_double d k.toNat s
    exact ⟨_, u, exec_lshf s d d k, hu, by rw [reg_writeResult_self, hreg]⟩

/-! ### Loads behind stores -/

section
variable {s : State} {dr b : RegId} {m : Memory}

/-- A byte load behind a store reads the stored memory, the address from the registers of before. -/
theorem execAll_store_ldb {i : Instr} (hexec : exec i s = .next (s.store m)) (off : BitVec 6) :
    ∃ t, execAll [i, .ldb dr b off] s = .next t ∧
      t.reg dr = (m.byte (byteAddress (s.reg b) off)).signExtend 16 := by
  refine ⟨_, (execAll_cons hexec _).trans (execAll_singleton (exec_ldb _ dr b off)), ?_⟩
  rw [reg_writeResult_self, memReadByte_eq]
  rfl

/-- The same for a word load. -/
theorem execAll_store_ldw {i : Instr} (hexec : exec i s = .next (s.store m)) (off : BitVec 6) :
    ∃ t, execAll [i, .ldw dr b off] s = .next t ∧ t.reg dr = memReadWord m (wordAddress (s.reg b) off) := by
  refine ⟨_, (execAll_cons hexec _).trans (execAll_singleton (exec_ldw _ dr b off)), ?_⟩
  rw [reg_writeResult_self]
  rfl

end

/-- Two addresses of one word share both byte addresses. -/
theorem oddAddress_eq_of_even {a b : Word} (h : a &&& 0xFFFE#16 = b &&& 0xFFFE#16) :
    a ||| 0x0001#16 = b ||| 0x0001#16 := by
  have := congrArg BitVec.toNat h
  rw [evenAddress_toNat, evenAddress_toNat] at this
  exact BitVec.eq_of_toNat_eq (by rw [oddAddress_toNat, oddAddress_toNat]; omega)

theorem byte_memWriteWord_even (m : Memory) (a v : Word) :
    (memWriteWord m a v).byte (a &&& 0xFFFE#16) = v.extractLsb' 0 8 := by
  rw [byte_memWriteWord, if_pos rfl]

theorem byte_memWriteWord_odd (m : Memory) (a v : Word) :
    (memWriteWord m a v).byte (a ||| 0x0001#16) = v.extractLsb' 8 8 := by
  rw [byte_memWriteWord, if_neg (evenAddress_ne_oddAddress _ _).symm, if_pos rfl]

/-- A word read behind a word store to the same word (20_memory.md R65). -/
theorem memReadWord_memWriteWord (m : Memory) {a b : Word} (v : Word) (h : b &&& 0xFFFE#16 = a &&& 0xFFFE#16) :
    memReadWord (memWriteWord m a v) b = v := by
  have hv := v.isLt
  apply BitVec.eq_of_toNat_eq
  rw [memReadWord_toNat, oddAddress_eq_of_even h, h, byte_memWriteWord_even, byte_memWriteWord_odd, lowByte_toNat,
    highByte_toNat]
  omega

/-- A word read behind a byte store into the word: the stored byte and the other one as before (R57, R65). -/
theorem memReadWord_memWriteByte (m : Memory) {a b : Word} (v : Byte) (h : b &&& 0xFFFE#16 = a &&& 0xFFFE#16) :
    (memReadWord (memWriteByte m a v) b).toNat =
      if a.getLsbD 0 then 256 * v.toNat + (m.byte (a &&& 0xFFFE#16)).toNat
      else 256 * (m.byte (a ||| 0x0001#16)).toNat + v.toNat := by
  rw [memReadWord_toNat, oddAddress_eq_of_even h, h, byte_memWriteByte, byte_memWriteByte]
  cases hbit : a.getLsbD 0 with
  | true =>
    have hodd := oddAddress_of_bit hbit
    have hne : a &&& 0xFFFE#16 ≠ a := fun he => evenAddress_ne_oddAddress a a (he.trans hodd.symm)
    rw [if_pos hodd, if_neg hne, if_pos rfl]
  | false =>
    have heven := evenAddress_of_bit hbit
    have hne : a ||| 0x0001#16 ≠ a := fun ho => evenAddress_ne_oddAddress a a (heven.trans ho.symm)
    rw [if_neg hne, if_pos heven, if_neg Bool.false_ne_true]

/-- The other byte of a word has another address. -/
theorem xor_one_ne (a : Word) : a ^^^ 1#16 ≠ a := by
  intro h
  have h1 : (1#16 : Word) = 0#16 := by
    rw [← BitVec.zero_xor (x := 1#16), ← BitVec.xor_self (x := a), BitVec.xor_assoc, h]
  exact absurd h1 (by decide)

/-- Settles O58: each load through `execAll_store_ldb` or `execAll_store_ldw`, and the byte read behind the store. -/
theorem loadAfterStore : Obligations.LoadAfterStore := by
  unfold Obligations.LoadAfterStore
  intro s sr b1 dr b2 o1 o2
  refine ⟨fun h => ?wordWord, fun h => ?wordLow, fun h => ?wordHigh, fun h => ?byteByte, fun h => ?byteWord,
    ⟨_, exec_stb s sr b1 o1, ?otherByte⟩, fun sr' => ?latest⟩
  case wordWord =>
    obtain ⟨t, ht, hreg⟩ := execAll_store_ldw (dr := dr) (b := b2) (exec_stw s sr b1 o1) o2
    exact ⟨t, ht, hreg.trans (memReadWord_memWriteWord _ _ h)⟩
  case wordLow =>
    obtain ⟨t, ht, hreg⟩ := execAll_store_ldb (dr := dr) (b := b2) (exec_stw s sr b1 o1) o2
    exact ⟨t, ht, by rw [hreg, BitVec.toInt_signExtend_of_le (by decide), h, byte_memWriteWord_even]⟩
  case wordHigh =>
    obtain ⟨t, ht, hreg⟩ := execAll_store_ldb (dr := dr) (b := b2) (exec_stw s sr b1 o1) o2
    exact ⟨t, ht, by rw [hreg, BitVec.toInt_signExtend_of_le (by decide), h, byte_memWriteWord_odd]⟩
  case byteByte =>
    obtain ⟨t, ht, hreg⟩ := execAll_store_ldb (dr := dr) (b := b2) (exec_stb s sr b1 o1) o2
    exact ⟨t, ht, by rw [hreg, BitVec.toInt_signExtend_of_le (by decide), h, byte_memWriteByte, if_pos rfl]⟩
  case byteWord =>
    obtain ⟨t, ht, hreg⟩ := execAll_store_ldw (dr := dr) (b := b2) (exec_stb s sr b1 o1) o2
    exact ⟨t, ht, by rw [hreg, memReadWord_memWriteByte _ _ h, lowByte_toNat]⟩
  case otherByte =>
    rw [store_eq, setPc_memory, setMemory_memory, byte_memWriteByte, if_neg (xor_one_ne _)]
  case latest =>
    refine ⟨_, _, (execAll_cons (exec_stw s sr' b1 o1) _).trans (execAll_singleton (exec_stw _ sr b1 o1)),
      exec_stw s sr b1 o1, fun c => ?_⟩
    simp only [store_eq, setPc_memory, setMemory_memory, reg_setPc, reg_setMemory, byte_memWriteWord]
    split_ifs <;> rfl

end Sys2Proof.Machine
end

section
/-! The control word (41_control_store.md R122, R129): which field owns a position, the conditions on the reference image, and
what a row that needs no operand leaves out. -/

namespace Sys2Proof.Machine

open Bits

/-- Settles O37: the 64 rows and the 16 opcodes, evaluated. -/
theorem referenceImageWellFormed : Obligations.ReferenceImageWellFormed := by
  unfold Obligations.ReferenceImageWellFormed
  have hrows : (List.range 64).all (fun r => wfRow (ucodeRef (BitVec.ofNat 6 r))) = true := by decide +kernel
  have hopcodes : (List.range 16).all (fun o => wfOpcode ucodeRef (BitVec.ofNat 4 o)) = true := by decide +kernel
  rw [wfUcode, hrows, hopcodes]
  rfl

/-- The field a position of the row string belongs to (R122). -/
def ownerOf : Nat → ControlField
  | 0 => .sr1Needed
  | 1 => .sr2Needed
  | 2 => .drMux
  | 3 => .addr1Mux
  | 4 => .addr2Mux
  | 5 => .addr2Mux
  | 6 => .lshf1
  | 7 => .addressMux
  | 8 => .sr2Mux
  | 9 => .aluK
  | 10 => .aluK
  | 11 => .aluResultMux
  | 12 => .brOp
  | 13 => .uncondOp
  | 14 => .trapOp
  | 15 => .brStall
  | 16 => .dcacheEn
  | 17 => .dcacheRw
  | 18 => .dataSize
  | 19 => .drValueMux
  | 20 => .drValueMux
  | 21 => .ldReg
  | _ => .ldCc

theorem ownerOf_position (f : ControlField) : ownerOf f.position = f := by
  cases f <;> rfl

theorem ownerOf_second (f : ControlField) (h : f.isPair = true) : ownerOf (f.position + 1) = f := by
  revert h
  cases f <;> decide

theorem position_lt (f : ControlField) : f.position < 23 := by
  cases f <;> decide

/-- A field is non-zero exactly when one of its bits is set (R125). -/
theorem fieldValue_ne_zero_iff (cw : ControlWord) (f : ControlField) : fieldValue cw f ≠ 0 ↔
    cw.getLsbD f.position = true ∨ (f.isPair = true ∧ cw.getLsbD (f.position + 1) = true) := by
  unfold fieldValue
  split
  next h =>
    rw [pairAt_eq, Nat.sub_zero]
    cases cw.getLsbD f.position <;> cases cw.getLsbD (f.position + 1) <;> simp [h]
  next h =>
    rw [flagAt_eq, Nat.sub_zero]
    cases cw.getLsbD f.position <;> simp [h]

/-- Settles O38: a position has one owner. -/
theorem controlFieldIsolation : Obligations.ControlFieldIsolation := by
  unfold Obligations.ControlFieldIsolation
  intro f g second hsecond
  have howner : ownerOf (f.position + second.toNat) = f := by
    cases hs : second with
    | true => exact ownerOf_second f (hsecond hs)
    | false => exact ownerOf_position f
  have hlt : f.position + second.toNat < 23 := by
    cases hs : second with
    | true => exact (hasPair_word f (hsecond hs)).2.2.1
    | false => exact position_lt f
  rw [fieldValue_ne_zero_iff, BitVec.getLsbD_twoPow, BitVec.getLsbD_twoPow, decide_eq_true hlt, Bool.true_and,
    Bool.true_and, decide_eq_true_iff, decide_eq_true_iff]
  constructor
  · rintro (hp | ⟨hg, hp⟩)
    · rw [← howner, hp, ownerOf_position]
    · rw [← howner, hp, ownerOf_second g hg]
  · rintro rfl
    cases hs : second with
    | true => exact .inr ⟨hsecond hs, rfl⟩
    | false => exact .inl rfl

section
variable {cw : ControlWord} {l : AgexLatch}

theorem agexFlag_of_slice (hcs : l.cs = agexSlice cw) (f : ControlField) (h : HasFlag agexFirst 20 f)
    (h0 : HasFlag 0 23 f) : l.flag f h = flagAt 0 cw f h0 := by
  rw [AgexLatch.flag, hcs]
  exact flagAt_agexSlice cw f h h0

theorem agexPair_of_slice (hcs : l.cs = agexSlice cw) (f : ControlField) (h : HasPair agexFirst 20 f)
    (h0 : HasPair 0 23 f) : l.pair f h = pairAt 0 cw f h0 := by
  rw [AgexLatch.pair, hcs]
  exact pairAt_agexSlice cw f h h0

end

/-- The address does not read SR1 when ADDR1MUX is 0 (45_stage_agex.md R181). -/
theorem agexAddress_sr1 {l : AgexLatch} (h : l.flag .addr1Mux = false) (v : Word) :
    agexAddress { l with sr1 := v } = agexAddress l := by
  rw [agexAddress, agexAddress, agexAddr1, agexAddr1, h]
  rfl

/-- The result does not read SR1 when the ALU passes operand B (R186, R188). -/
theorem agexResult_sr1 {l : AgexLatch} (halu : l.flag .aluResultMux = true) (hpass : l.pair .aluK = 3#2) (v : Word) :
    agexResult { l with sr1 := v } = agexResult l := by
  rw [agexResult, agexResult, if_pos halu, if_pos halu, agexAluOut, agexAluOut, hpass]
  rfl

/-- The result does not read SR2 when the shifter or the immediate is selected (R185, R188). -/
theorem agexResult_sr2 {l : AgexLatch} (h : l.flag .aluResultMux = false ∨ l.flag .sr2Mux = true) (v : Word) :
    agexResult { l with sr2 := v } = agexResult l := by
  rcases h with hshf | himm
  · rw [agexResult, agexResult, hshf]
    rfl
  · have hb : agexOperandB { l with sr2 := v } = agexOperandB l := by
      rw [agexOperandB, agexOperandB, if_pos himm, if_pos himm]
    rw [agexResult, agexResult, agexAluOut, agexAluOut, hb]
    rfl

/-- Settles O41: W3 leaves ADDR1MUX 0 and operand B passed, W4 the shifter or the immediate. -/
theorem unneededOperandsDoNotMatter : Obligations.UnneededOperandsDoNotMatter := by
  unfold Obligations.UnneededOperandsDoNotMatter
  intro cw l v hcs
  refine ⟨fun hwf hneed => ⟨fun haddr => ?addr1, fun hres => ?res1⟩, fun hwf hneed => ⟨rfl, fun hres => ?res2⟩⟩
  case addr1 =>
    refine agexAddress_sr1 ?_ v
    rw [agexFlag_of_slice hcs .addr1Mux _ (by decide)]
    simp only [wfSr1, hneed, haddr, Bool.and_true, Bool.or_false, Bool.not_eq_true', Bool.or_eq_false_iff] at hwf
    exact hwf.1.1
  case res1 =>
    have h : flagAt 0 cw .aluResultMux = true ∧ pairAt 0 cw .aluK = 3#2 := by
      cases halu : flagAt 0 cw .aluResultMux with
      | true =>
        simp only [wfSr1, hneed, hres, halu, Bool.true_and, Bool.not_true, Bool.or_false, Bool.not_eq_true',
          Bool.or_eq_false_iff, bne_eq_false_iff_eq] at hwf
        exact ⟨rfl, hwf.2⟩
      | false => simp [wfSr1, hneed, hres, halu] at hwf
    refine agexResult_sr1 ?_ ?_ v
    · rw [agexFlag_of_slice hcs .aluResultMux _ (by decide), h.1]
    · rw [agexPair_of_slice hcs .aluK _ (by decide), h.2]
  case res2 =>
    refine agexResult_sr2 ?_ v
    rw [agexFlag_of_slice hcs .aluResultMux _ (by decide), agexFlag_of_slice hcs .sr2Mux _ (by decide)]
    cases halu : flagAt 0 cw .aluResultMux with
    | true => exact .inr (by simpa [wfSr2, hneed, hres, halu] using hwf)
    | false => exact .inl rfl

end Sys2Proof.Machine
end

section
/-! The bit container at every width (40_bit_primitives.md R104 to R106, R112), canonical memory and the loader. -/

namespace Sys2Proof.Machine.Bits

/-- The mask of a range has the bits `lo` to `hi` (R104). -/
theorem getLsbD_rangeMask {w hi lo i : Nat} (h : RangeOk w hi lo) (hi' : i < w) :
    (rangeMask w hi lo h).getLsbD i = decide (lo ≤ i ∧ i ≤ hi) := by
  obtain ⟨hle, hlt, -⟩ := h
  rw [rangeMask, BitVec.getLsbD_shiftLeft, BitVec.getLsbD_setWidth, BitVec.getLsbD_allOnes, Bool.eq_iff_iff]
  simp only [Bool.and_eq_true, Bool.not_eq_true', decide_eq_true_iff, decide_eq_false_iff_not]
  omega

/-- Every bit after a range write (R104). -/
theorem getLsbD_setRange {w : Nat} (x : BitVec w) {hi lo i : Nat} (y : BitVec (hi - lo + 1)) (h : RangeOk w hi lo)
    (hi' : i < w) : (setRange x hi lo y h).getLsbD i =
      if lo ≤ i ∧ i ≤ hi then y.getLsbD (i - lo) else x.getLsbD i := by
  have hlt : hi < w := h.2.1
  rw [setRange, BitVec.getLsbD_or, BitVec.getLsbD_and, BitVec.getLsbD_not, getLsbD_rangeMask h hi',
    BitVec.getLsbD_shiftLeft, BitVec.getLsbD_setWidth]
  by_cases hin : lo ≤ i ∧ i ≤ hi
  · have hwidth : i - lo < w := by omega
    simp [hin, hi', hwidth, Nat.not_lt.mpr hin.1]
  · rw [if_neg hin, decide_eq_false hin, decide_eq_true hi']
    by_cases hlo : i < lo
    · simp [hlo]
    · have hy : y.getLsbD (i - lo) = false := BitVec.getLsbD_of_ge _ _ (by omega)
      simp [hy]

/-- The mask and the shifted value as the spec's formula writes them (R104). -/
theorem setRange_eq_formula {w : Nat} (x : BitVec w) {hi lo : Nat} (y : BitVec (hi - lo + 1)) (h : RangeOk w hi lo) :
    setRange x hi lo y h =
      (x &&& ~~~(BitVec.ofNat w ((2 ^ (hi - lo + 1) - 1) <<< lo))) ||| BitVec.ofNat w (y.toNat <<< lo) := by
  have hmask : rangeMask w hi lo h = BitVec.ofNat w ((2 ^ (hi - lo + 1) - 1) <<< lo) := by
    apply BitVec.eq_of_toNat_eq
    simp [rangeMask, Nat.shiftLeft_eq, Nat.mod_mul_mod]
  have hvalue : (y.setWidth w) <<< lo = BitVec.ofNat w (y.toNat <<< lo) := by
    apply BitVec.eq_of_toNat_eq
    simp [Nat.shiftLeft_eq, Nat.mod_mul_mod]
  rw [setRange, hmask, hvalue]

/-- Settles O42: bit by bit from `getLsbD_setRange`. -/
theorem rangeWriteThrough : Obligations.RangeWriteThrough := by
  unfold Obligations.RangeWriteThrough
  refine ⟨fun w x hi lo y h => ⟨?readBack, fun i hi' hout => ?frame, setRange_eq_formula x y h⟩, by decide⟩
  case readBack =>
    obtain ⟨hle, hlt, -⟩ := h
    apply BitVec.eq_of_getLsbD_eq
    intro k hk
    rw [getLsbD_range, decide_eq_true hk, Bool.true_and, getLsbD_setRange x y _ (by omega), if_pos (by omega),
      Nat.add_sub_cancel_left]
  case frame =>
    rw [bit_eq, bit_eq, getLsbD_setRange x y h hi'.1, if_neg (by omega)]

section
variable {w : Nat} (x : BitVec w) {b : Nat} (h : IndexOk w b)

theorem getLsbD_signExtendFrom {k : Nat} (hk : k < w) :
    (signExtendFrom x b h).getLsbD k = if k ≤ b then x.getLsbD k else x.getLsbD b := by
  rw [signExtendFrom, BitVec.getLsbD_signExtend, decide_eq_true hk, Bool.true_and, BitVec.msb_eq_getLsbD_last,
    BitVec.getLsbD_setWidth, BitVec.getLsbD_setWidth]
  by_cases hkb : k ≤ b
  · simp [hkb, Nat.lt_succ_of_le hkb]
  · simp [hkb]

theorem getLsbD_zeroExtendFrom {k : Nat} (hk : k < w) :
    (zeroExtendFrom x b h).getLsbD k = (decide (k ≤ b) && x.getLsbD k) := by
  rw [zeroExtendFrom, BitVec.getLsbD_setWidth, BitVec.getLsbD_setWidth, decide_eq_true hk, Bool.true_and]
  simp only [Nat.lt_succ_iff]

theorem zeroExtendFrom_toNat : (zeroExtendFrom x b h).toNat = x.toNat % 2 ^ (b + 1) := by
  have hle : 2 ^ (b + 1) ≤ 2 ^ w := Nat.pow_le_pow_right (by decide) h.1
  have hlt : x.toNat % 2 ^ (b + 1) < 2 ^ (b + 1) := Nat.mod_lt _ (Nat.two_pow_pos _)
  rw [zeroExtendFrom, BitVec.toNat_setWidth, BitVec.toNat_setWidth, Nat.mod_eq_of_lt (by omega)]

theorem signExtendFrom_toInt : (signExtendFrom x b h).toInt = (range x b 0 ⟨Nat.zero_le b, h⟩).toInt := by
  rw [signExtendFrom, BitVec.toInt_signExtend_of_le h.1, BitVec.setWidth_eq_extractLsb' h.1]
  rfl

end

/-- Settles O43: bit by bit, and the numbers from the library's extensions. -/
theorem extensionLaws : Obligations.ExtensionLaws := by
  unfold Obligations.ExtensionLaws
  refine fun w x b h => ⟨fun k hk => getLsbD_signExtendFrom x h hk.1, fun k hk => getLsbD_zeroExtendFrom x h hk.1,
    zeroExtendFrom_toNat x h, signExtendFrom_toInt x h, fun hw => ⟨?sign, ?zero⟩⟩
  case sign =>
    apply BitVec.eq_of_getLsbD_eq
    intro k hk
    rw [getLsbD_signExtendFrom x hw hk, if_pos (by omega)]
  case zero =>
    apply BitVec.eq_of_getLsbD_eq
    intro k hk
    rw [getLsbD_zeroExtendFrom x hw hk, decide_eq_true (by omega), Bool.true_and]

end Sys2Proof.Machine.Bits

namespace Sys2Proof.Machine

/-- In a list of rising addresses an entry is the byte read at its address. -/
theorem readAt_of_mem {m : Memory} (hm : m.Pairwise (fun c d => c.1 < d.1)) {k : Nat} {v : Byte} (h : (k, v) ∈ m) :
    m.readAt k = v := by
  induction m with
  | nil => cases h
  | cons e rest ih =>
    obtain ⟨k', v'⟩ := e
    rw [List.pairwise_cons] at hm
    rw [Memory.readAt]
    rcases List.mem_cons.mp h with heq | hrest
    · cases heq
      rw [if_pos rfl]
    · have hlt : k' < k := hm.1 _ hrest
      rw [if_neg (by omega)]
      exact ih hm.2 hrest

/-- A byte that is not the default comes from an entry. -/
theorem mem_of_readAt {m : Memory} {k : Nat} (h : m.readAt k ≠ Memory.unlisted) : (k, m.readAt k) ∈ m := by
  induction m with
  | nil => exact absurd rfl h
  | cons e rest ih =>
    obtain ⟨k', v'⟩ := e
    rw [Memory.readAt] at h ⊢
    by_cases heq : k' = k
    · rw [if_pos heq, heq]
      exact List.mem_cons_self
    · rw [if_neg heq] at h ⊢
      exact List.mem_cons_of_mem _ (ih h)

/-- An entry of a canonical memory is also one of every canonical memory that reads the same. -/
theorem mem_of_reads_alike {m m' : Memory} (hm : m.wf = true) (h : ∀ a : Word, m.byte a = m'.byte a) {e : Host.Cell}
    (he : e ∈ m) : e ∈ m' := by
  obtain ⟨hsorted, hentry⟩ := (wf_iff m).mp hm
  obtain ⟨k, v⟩ := e
  obtain ⟨hk, hv⟩ : k < 65536 ∧ v ≠ Memory.unlisted := hentry _ he
  have hsame : m.readAt k = m'.readAt k := by
    have := h (BitVec.ofNat 16 k)
    rwa [Memory.byte, Memory.byte, BitVec.toNat_ofNat, Nat.mod_eq_of_lt hk] at this
  rw [← readAt_of_mem hsorted he, hsame]
  exact mem_of_readAt (by rw [← hsame, readAt_of_mem hsorted he]; exact hv)

/-- Settles O44: two lists of rising addresses with the same entries are the same list. -/
theorem canonicalMemoryIsDeterminedByItsBytes : Obligations.CanonicalMemoryIsDeterminedByItsBytes := by
  unfold Obligations.CanonicalMemoryIsDeterminedByItsBytes
  intro m m' hm hm' h
  have hirrefl : Std.Irrefl (fun c d : Host.Cell => c.1 < d.1) := ⟨fun c => Nat.lt_irrefl c.1⟩
  have hantisymm : Std.Antisymm (fun c d : Host.Cell => c.1 < d.1) :=
    ⟨fun c d hcd hdc => absurd (Nat.lt_trans hcd hdc) (Nat.lt_irrefl _)⟩
  exact ((wf_iff m).mp hm).1.eq_of_mem_iff ((wf_iff m').mp hm').1
    fun e => ⟨mem_of_reads_alike hm h, mem_of_reads_alike hm' fun a => (h a).symm⟩

theorem word_writeMasked (m : Memory) (w a : WordAddr) (v : Word) :
    (m.writeMasked w v true true).word a = if a = w then v else m.word a := by
  have hiff : (highAddr a = highAddr w ↔ a = w) ∧ (lowAddr a = lowAddr w ↔ a = w) := by
    rw [← BitVec.toNat_inj, highAddr, highAddr, lowAddr, lowAddr]
    omega
  rw [Memory.word, Memory.word, Memory.getHigh, Memory.getLow, Memory.getHigh, Memory.getLow, readAt_writeMasked,
    readAt_writeMasked]
  simp only [hiff, lowAddr_ne_highAddr, (lowAddr_ne_highAddr _ _).symm, true_and, if_false]
  split
  · calc v.extractLsb' 8 8 ++ v.extractLsb' 0 8 = v.extractLsb' 0 16 :=
          BitVec.extractLsb'_append_extractLsb'_eq_extractLsb' rfl
      _ = v := BitVec.extractLsb'_eq_self
  · rfl

/-- Every word after a file that fits: the file's where it lies, else what was there (30_encoding.md R96). -/
theorem word_loadFile (m : Memory) (base : WordAddr) (ws : List Word) (hfit : base.toNat + ws.length ≤ 32768)
    (a : WordAddr) : (m.loadFile base ws).word a =
      if base.toNat ≤ a.toNat then ws.getD (a.toNat - base.toNat) (m.word a) else m.word a := by
  induction ws generalizing m base with
  | nil => simp [Memory.loadFile]
  | cons v rest ih =>
    have ha := a.isLt
    rw [List.length_cons] at hfit
    have hnext : (base + 1).toNat = (base.toNat + 1) % 32768 := BitVec.toNat_add base 1
    rw [Memory.loadFile, ih _ _ (by omega), word_writeMasked]
    rcases Nat.lt_trichotomy a.toNat base.toNat with hlt | heq | hgt
    · have hne : a ≠ base := fun h => by rw [h] at hlt; omega
      rw [if_neg hne, if_neg (by omega : ¬base.toNat ≤ a.toNat)]
      by_cases hwrap : base.toNat = 32767
      · obtain rfl : rest = [] := List.length_eq_zero_iff.mp (by omega)
        simp
      · rw [if_neg (by omega)]
    · obtain rfl : a = base := BitVec.eq_of_toNat_eq heq
      rw [if_pos rfl, if_pos (Nat.le_refl _), Nat.sub_self, List.getD_cons_zero]
      by_cases hwrap : a.toNat = 32767
      · obtain rfl : rest = [] := List.length_eq_zero_iff.mp (by omega)
        simp
      · rw [if_neg (by omega)]
    · have hne : a ≠ base := fun h => by rw [h] at hgt; omega
      obtain ⟨k, hk⟩ : ∃ k, a.toNat - base.toNat = k + 1 := ⟨a.toNat - base.toNat - 1, by omega⟩
      rw [if_neg hne, if_pos (by omega), if_pos (by omega), hk, List.getD_cons_succ, hnext]
      congr 1
      omega

/-- Settles O45. -/
theorem loaderDeliversTheFile : Obligations.LoaderDeliversTheFile := by
  unfold Obligations.LoaderDeliversTheFile
  refine fun m base ws hfit => ⟨fun k hk => ?_, fun a ha => ?_⟩
  · have haddr : (BitVec.ofNat 15 (base.toNat + k)).toNat = base.toNat + k := by
      rw [BitVec.toNat_ofNat]
      exact Nat.mod_eq_of_lt (by omega)
    rw [word_loadFile m base ws hfit, haddr, if_pos (by omega), Nat.add_sub_cancel_left, List.getD_eq_getElem _ _ hk]
  · rw [word_loadFile m base ws hfit]
    split
    · exact List.getD_eq_default _ _ (by omega)
    · rfl

end Sys2Proof.Machine
end

section
/-! The decoder and the encoder (30_encoding.md R80 to R91): what a word says of the instruction it decodes to, the fields of
a word put together from its parts, and the parts put together again. -/

namespace Sys2Proof

open Machine Machine.Bits

/-- What the decoder reads in a word, row by row of the opcode table (R85, R87). -/
inductive Decodes (w : Word) : Instr → Prop
  | addReg (hop : fieldOpcode w = 0b0001#4) (h5 : bit w 5 = false) :
    Decodes w (.addReg (fieldDR w) (fieldSR1 w) (fieldSR2 w))
  | addImm (hop : fieldOpcode w = 0b0001#4) (h5 : bit w 5 = true) :
    Decodes w (.addImm (fieldDR w) (fieldSR1 w) (fieldImm5 w))
  | andReg (hop : fieldOpcode w = 0b0101#4) (h5 : bit w 5 = false) :
    Decodes w (.andReg (fieldDR w) (fieldSR1 w) (fieldSR2 w))
  | andImm (hop : fieldOpcode w = 0b0101#4) (h5 : bit w 5 = true) :
    Decodes w (.andImm (fieldDR w) (fieldSR1 w) (fieldImm5 w))
  | xorReg (hop : fieldOpcode w = 0b1001#4) (h5 : bit w 5 = false) :
    Decodes w (.xorReg (fieldDR w) (fieldSR1 w) (fieldSR2 w))
  | xorImm (hop : fieldOpcode w = 0b1001#4) (h5 : bit w 5 = true) (himm : fieldImm5 w ≠ 0b11111#5) :
    Decodes w (.xorImm (fieldDR w) (fieldSR1 w) (fieldImm5 w))
  | notReg (hop : fieldOpcode w = 0b1001#4) (h5 : bit w 5 = true) (himm : fieldImm5 w = 0b11111#5) :
    Decodes w (.notReg (fieldDR w) (fieldSR1 w))
  | lshf (hop : fieldOpcode w = 0b1101#4) (h4 : bit w 4 = false) :
    Decodes w (.lshf (fieldDR w) (fieldSR1 w) (fieldAmount4 w))
  | rshfl (hop : fieldOpcode w = 0b1101#4) (h4 : bit w 4 = true) (h5 : bit w 5 = false) :
    Decodes w (.rshfl (fieldDR w) (fieldSR1 w) (fieldAmount4 w))
  | rshfa (hop : fieldOpcode w = 0b1101#4) (h4 : bit w 4 = true) (h5 : bit w 5 = true) :
    Decodes w (.rshfa (fieldDR w) (fieldSR1 w) (fieldAmount4 w))
  | lea (hop : fieldOpcode w = 0b1110#4) : Decodes w (.lea (fieldDR w) (fieldPcOffset9 w))
  | ldb (hop : fieldOpcode w = 0b0010#4) : Decodes w (.ldb (fieldDR w) (fieldSR1 w) (fieldOffset6 w))
  | ldw (hop : fieldOpcode w = 0b0110#4) : Decodes w (.ldw (fieldDR w) (fieldSR1 w) (fieldOffset6 w))
  | stb (hop : fieldOpcode w = 0b0011#4) : Decodes w (.stb (fieldDR w) (fieldSR1 w) (fieldOffset6 w))
  | stw (hop : fieldOpcode w = 0b0111#4) : Decodes w (.stw (fieldDR w) (fieldSR1 w) (fieldOffset6 w))
  | br (hop : fieldOpcode w = 0b0000#4) (hw : w ≠ 0x0000#16) :
    Decodes w (.br (bit w 11) (bit w 10) (bit w 9) (fieldPcOffset9 w))
  | nop (hw : w = 0x0000#16) : Decodes w .nop
  | jmp (hop : fieldOpcode w = 0b1100#4) (hbase : fieldSR1 w ≠ 7#3) : Decodes w (.jmp (fieldSR1 w))
  | ret (hop : fieldOpcode w = 0b1100#4) (hbase : fieldSR1 w = 7#3) : Decodes w .ret
  | jsr (hop : fieldOpcode w = 0b0100#4) (h11 : bit w 11 = true) : Decodes w (.jsr (fieldPcOffset11 w))
  | jsrr (hop : fieldOpcode w = 0b0100#4) (h11 : bit w 11 = false) : Decodes w (.jsrr (fieldSR1 w))
  | trap (hop : fieldOpcode w = 0b1111#4) (hvec : fieldTrapvect8 w ≠ 0x25#8) : Decodes w (.trap (fieldTrapvect8 w))
  | halt (hop : fieldOpcode w = 0b1111#4) (hvec : fieldTrapvect8 w = 0x25#8) : Decodes w .halt
  | rti (hop : fieldOpcode w = 0b1000#4) : Decodes w .rti
  | reserved1010 (hop : fieldOpcode w = 0b1010#4) : Decodes w .reserved1010
  | reserved1011 (hop : fieldOpcode w = 0b1011#4) : Decodes w .reserved1011

/-- The sixteen opcodes (R83). -/
theorem opcode_cases (op : BitVec 4) : op = 0b0000#4 ∨ op = 0b0001#4 ∨ op = 0b0010#4 ∨ op = 0b0011#4 ∨ op = 0b0100#4 ∨
    op = 0b0101#4 ∨ op = 0b0110#4 ∨ op = 0b0111#4 ∨ op = 0b1000#4 ∨ op = 0b1001#4 ∨ op = 0b1010#4 ∨ op = 0b1011#4 ∨
    op = 0b1100#4 ∨ op = 0b1101#4 ∨ op = 0b1110#4 ∨ op = 0b1111#4 := by
  revert op
  decide

section
variable {w : Word}

/-! The opcodes with more than one row. -/

theorem decodeWord_branch (hop : fieldOpcode w = 0b0000#4) : decodeWord w =
    if w = 0x0000#16 then .nop else .br (bit w 11) (bit w 10) (bit w 9) (fieldPcOffset9 w) := by
  simp only [decodeWord, hop]; rfl

theorem decodeWord_add (hop : fieldOpcode w = 0b0001#4) : decodeWord w =
    if bit w 5 then .addImm (fieldDR w) (fieldSR1 w) (fieldImm5 w)
    else .addReg (fieldDR w) (fieldSR1 w) (fieldSR2 w) := by
  simp only [decodeWord, hop]; rfl

theorem decodeWord_call (hop : fieldOpcode w = 0b0100#4) : decodeWord w =
    if bit w 11 then .jsr (fieldPcOffset11 w) else .jsrr (fieldSR1 w) := by
  simp only [decodeWord, hop]; rfl

theorem decodeWord_and (hop : fieldOpcode w = 0b0101#4) : decodeWord w =
    if bit w 5 then .andImm (fieldDR w) (fieldSR1 w) (fieldImm5 w)
    else .andReg (fieldDR w) (fieldSR1 w) (fieldSR2 w) := by
  simp only [decodeWord, hop]; rfl

theorem decodeWord_xor (hop : fieldOpcode w = 0b1001#4) : decodeWord w =
    if bit w 5 then
      if fieldImm5 w = 0b11111#5 then .notReg (fieldDR w) (fieldSR1 w)
      else .xorImm (fieldDR w) (fieldSR1 w) (fieldImm5 w)
    else .xorReg (fieldDR w) (fieldSR1 w) (fieldSR2 w) := by
  simp only [decodeWord, hop]; rfl

theorem decodeWord_jump (hop : fieldOpcode w = 0b1100#4) : decodeWord w =
    if fieldSR1 w = 7#3 then .ret else .jmp (fieldSR1 w) := by
  simp only [decodeWord, hop]; rfl

theorem decodeWord_shift (hop : fieldOpcode w = 0b1101#4) : decodeWord w =
    if bit w 4 then
      if bit w 5 then .rshfa (fieldDR w) (fieldSR1 w) (fieldAmount4 w)
      else .rshfl (fieldDR w) (fieldSR1 w) (fieldAmount4 w)
    else .lshf (fieldDR w) (fieldSR1 w) (fieldAmount4 w) := by
  simp only [decodeWord, hop]; rfl

theorem decodeWord_trap (hop : fieldOpcode w = 0b1111#4) : decodeWord w =
    if fieldTrapvect8 w = 0x25#8 then .halt else .trap (fieldTrapvect8 w) := by
  simp only [decodeWord, hop]; rfl

/-! The opcodes with one row. -/

theorem decodeWord_ldb (hop : fieldOpcode w = 0b0010#4) :
    decodeWord w = .ldb (fieldDR w) (fieldSR1 w) (fieldOffset6 w) := by
  simp only [decodeWord, hop]; rfl

theorem decodeWord_stb (hop : fieldOpcode w = 0b0011#4) :
    decodeWord w = .stb (fieldDR w) (fieldSR1 w) (fieldOffset6 w) := by
  simp only [decodeWord, hop]; rfl

theorem decodeWord_ldw (hop : fieldOpcode w = 0b0110#4) :
    decodeWord w = .ldw (fieldDR w) (fieldSR1 w) (fieldOffset6 w) := by
  simp only [decodeWord, hop]; rfl

theorem decodeWord_stw (hop : fieldOpcode w = 0b0111#4) :
    decodeWord w = .stw (fieldDR w) (fieldSR1 w) (fieldOffset6 w) := by
  simp only [decodeWord, hop]; rfl

theorem decodeWord_rti (hop : fieldOpcode w = 0b1000#4) : decodeWord w = .rti := by
  simp only [decodeWord, hop]; rfl

theorem decodeWord_reserved1010 (hop : fieldOpcode w = 0b1010#4) : decodeWord w = .reserved1010 := by
  simp only [decodeWord, hop]; rfl

theorem decodeWord_reserved1011 (hop : fieldOpcode w = 0b1011#4) : decodeWord w = .reserved1011 := by
  simp only [decodeWord, hop]; rfl

theorem decodeWord_lea (hop : fieldOpcode w = 0b1110#4) : decodeWord w = .lea (fieldDR w) (fieldPcOffset9 w) := by
  simp only [decodeWord, hop]; rfl

end

theorem decodes (w : Word) : Decodes w (decodeWord w) := by
  rcases opcode_cases (fieldOpcode w) with hop | hop | hop | hop | hop | hop | hop | hop | hop | hop | hop | hop | hop |
    hop | hop | hop
  · rw [decodeWord_branch hop]
    split
    next hw => exact .nop hw
    next hw => exact .br hop hw
  · rw [decodeWord_add hop]
    cases h5 : bit w 5 with
    | true => exact .addImm hop h5
    | false => exact .addReg hop h5
  · rw [decodeWord_ldb hop]; exact .ldb hop
  · rw [decodeWord_stb hop]; exact .stb hop
  · rw [decodeWord_call hop]
    cases h11 : bit w 11 with
    | true => exact .jsr hop h11
    | false => exact .jsrr hop h11
  · rw [decodeWord_and hop]
    cases h5 : bit w 5 with
    | true => exact .andImm hop h5
    | false => exact .andReg hop h5
  · rw [decodeWord_ldw hop]; exact .ldw hop
  · rw [decodeWord_stw hop]; exact .stw hop
  · rw [decodeWord_rti hop]; exact .rti hop
  · rw [decodeWord_xor hop]
    cases h5 : bit w 5 with
    | true =>
      rw [if_pos rfl]
      split
      next himm => exact .notReg hop h5 himm
      next himm => exact .xorImm hop h5 himm
    | false => exact .xorReg hop h5
  · rw [decodeWord_reserved1010 hop]; exact .reserved1010 hop
  · rw [decodeWord_reserved1011 hop]; exact .reserved1011 hop
  · rw [decodeWord_jump hop]
    split
    next hbase => exact .ret hop hbase
    next hbase => exact .jmp hop hbase
  · rw [decodeWord_shift hop]
    cases h4 : bit w 4 with
    | true =>
      cases h5 : bit w 5 with
      | true => exact .rshfa hop h4 h5
      | false => exact .rshfl hop h4 h5
    | false => exact .lshf hop h4
  · rw [decodeWord_lea hop]; exact .lea hop
  · rw [decodeWord_trap hop]
    split
    next hvec => exact .halt hop hvec
    next hvec => exact .trap hop hvec

/-- What a word reads as is what it decodes to. -/
theorem Decodes.eq {w : Word} {i : Instr} (h : Decodes w i) : decodeWord w = i := by
  cases h with
  | addReg hop h5 => rw [decodeWord_add hop, h5]; rfl
  | addImm hop h5 => rw [decodeWord_add hop, h5]; rfl
  | andReg hop h5 => rw [decodeWord_and hop, h5]; rfl
  | andImm hop h5 => rw [decodeWord_and hop, h5]; rfl
  | xorReg hop h5 => rw [decodeWord_xor hop, h5]; rfl
  | xorImm hop h5 himm => rw [decodeWord_xor hop, if_pos h5, if_neg himm]
  | notReg hop h5 himm => rw [decodeWord_xor hop, if_pos h5, if_pos himm]
  | lshf hop h4 => rw [decodeWord_shift hop, h4]; rfl
  | rshfl hop h4 h5 => rw [decodeWord_shift hop, h4, h5]; rfl
  | rshfa hop h4 h5 => rw [decodeWord_shift hop, h4, h5]; rfl
  | lea hop => exact decodeWord_lea hop
  | ldb hop => exact decodeWord_ldb hop
  | ldw hop => exact decodeWord_ldw hop
  | stb hop => exact decodeWord_stb hop
  | stw hop => exact decodeWord_stw hop
  | br hop hw => rw [decodeWord_branch hop, if_neg hw]
  | nop hw => rw [hw]; rfl
  | jmp hop hbase => rw [decodeWord_jump hop, if_neg hbase]
  | ret hop hbase => rw [decodeWord_jump hop, if_pos hbase]
  | jsr hop h11 => rw [decodeWord_call hop, h11]; rfl
  | jsrr hop h11 => rw [decodeWord_call hop, h11]; rfl
  | trap hop hvec => rw [decodeWord_trap hop, if_neg hvec]
  | halt hop hvec => rw [decodeWord_trap hop, if_pos hvec]
  | rti hop => exact decodeWord_rti hop
  | reserved1010 hop => exact decodeWord_reserved1010 hop
  | reserved1011 hop => exact decodeWord_reserved1011 hop

end Sys2Proof
end

section
/-! The formats of an instruction word (30_encoding.md R81 to R84): what is read from a word put together from its parts, and
a word as its own parts. -/

namespace Sys2Proof

open Machine Machine.Bits BitVec

/-- A single bit of a word as a part of it. -/
theorem ofBool_bit (w : Word) (i : Nat) (h : IndexOk 16 i) : BitVec.ofBool (bit w i h) = w.extractLsb' i 1 := by
  apply BitVec.eq_of_getLsbD_eq
  intro k hk
  obtain rfl : k = 0 := by omega
  simp

/-- What is read from a word of the format of ADD, AND, XOR of two registers. -/
theorem read_operateReg (op : BitVec 4) (dr : BitVec 3) (sr1 : BitVec 3) (b5 : BitVec 1) (x : BitVec 2) (sr2 : BitVec 3) :
    let w : Word := op ++ dr ++ sr1 ++ b5 ++ x ++ sr2
    fieldOpcode w = op ∧ fieldDR w = dr ∧ fieldSR1 w = sr1 ∧ bit w 5 = b5.getLsbD 0 ∧ fieldSR2 w = sr2 := by
  refine ⟨?_, ?_, ?_, ?_, ?_⟩
  · show (op ++ dr ++ sr1 ++ b5 ++ x ++ sr2).extractLsb' 12 4 = op
    repeat rw [extractLsb'_append_eq_of_le (by decide)]
    exact extractLsb'_eq_self
  · show (op ++ dr ++ sr1 ++ b5 ++ x ++ sr2).extractLsb' 9 3 = dr
    repeat rw [extractLsb'_append_eq_of_le (by decide)]
    exact extractLsb'_append_eq_right
  · show (op ++ dr ++ sr1 ++ b5 ++ x ++ sr2).extractLsb' 6 3 = sr1
    repeat rw [extractLsb'_append_eq_of_le (by decide)]
    exact extractLsb'_append_eq_right
  · show (op ++ dr ++ sr1 ++ b5 ++ x ++ sr2).getLsbD 5 = _
    simp only [getLsbD_append]
    rfl
  · exact extractLsb'_append_eq_right

theorem parts_operateReg (w : Word) :
    fieldOpcode w ++ fieldDR w ++ fieldSR1 w ++ BitVec.ofBool (bit w 5) ++ w.extractLsb' 3 2 ++ fieldSR2 w = w := by
  rw [ofBool_bit]
  show w.extractLsb' 12 4 ++ w.extractLsb' 9 3 ++ w.extractLsb' 6 3 ++ w.extractLsb' 5 1 ++ w.extractLsb' 3 2 ++
    w.extractLsb' 0 3 = w
  repeat rw [extractLsb'_append_extractLsb'_eq_extractLsb' (by decide)]
  exact extractLsb'_eq_self

theorem mask_operateReg (op : BitVec 4) (dr : BitVec 3) (sr1 : BitVec 3) (b5 : BitVec 1) (x : BitVec 2) (sr2 : BitVec 3) :
    (op ++ dr ++ sr1 ++ b5 ++ x ++ sr2 : Word) &&& ~~~0x0018#16 = op ++ dr ++ sr1 ++ b5 ++ 0#2 ++ sr2 := by
  show (op ++ dr ++ sr1 ++ b5 ++ x ++ sr2) &&& (allOnes 4 ++ allOnes 3 ++ allOnes 3 ++ allOnes 1 ++ 0#2 ++ allOnes 3) = _
  simp only [and_append, and_allOnes, and_zero]

/-- The format with its unread bits cleared (R90). -/
theorem keep_operateReg (w : Word) :
    fieldOpcode w ++ fieldDR w ++ fieldSR1 w ++ BitVec.ofBool (bit w 5) ++ 0#2 ++ fieldSR2 w = w &&& ~~~0x0018#16 :=
  (mask_operateReg ..).symm.trans (congrArg (· &&& ~~~0x0018#16) (parts_operateReg w))

/-- What is read from a word of the format of ADD, AND, XOR of an immediate, and NOT. -/
theorem read_operateImm (op : BitVec 4) (dr : BitVec 3) (sr1 : BitVec 3) (b5 : BitVec 1) (imm5 : BitVec 5) :
    let w : Word := op ++ dr ++ sr1 ++ b5 ++ imm5
    fieldOpcode w = op ∧ fieldDR w = dr ∧ fieldSR1 w = sr1 ∧ bit w 5 = b5.getLsbD 0 ∧ fieldImm5 w = imm5 := by
  refine ⟨?_, ?_, ?_, ?_, ?_⟩
  · show (op ++ dr ++ sr1 ++ b5 ++ imm5).extractLsb' 12 4 = op
    repeat rw [extractLsb'_append_eq_of_le (by decide)]
    exact extractLsb'_eq_self
  · show (op ++ dr ++ sr1 ++ b5 ++ imm5).extractLsb' 9 3 = dr
    repeat rw [extractLsb'_append_eq_of_le (by decide)]
    exact extractLsb'_append_eq_right
  · show (op ++ dr ++ sr1 ++ b5 ++ imm5).extractLsb' 6 3 = sr1
    repeat rw [extractLsb'_append_eq_of_le (by decide)]
    exact extractLsb'_append_eq_right
  · show (op ++ dr ++ sr1 ++ b5 ++ imm5).getLsbD 5 = _
    simp only [getLsbD_append]
    rfl
  · exact extractLsb'_append_eq_right

theorem parts_operateImm (w : Word) :
    fieldOpcode w ++ fieldDR w ++ fieldSR1 w ++ BitVec.ofBool (bit w 5) ++ fieldImm5 w = w := by
  rw [ofBool_bit]
  show w.extractLsb' 12 4 ++ w.extractLsb' 9 3 ++ w.extractLsb' 6 3 ++ w.extractLsb' 5 1 ++ w.extractLsb' 0 5 = w
  repeat rw [extractLsb'_append_extractLsb'_eq_extractLsb' (by decide)]
  exact extractLsb'_eq_self

/-- What is read from a word of the format of the shifts. -/
theorem read_shift (op : BitVec 4) (dr : BitVec 3) (sr : BitVec 3) (b5 : BitVec 1) (b4 : BitVec 1) (k : BitVec 4) :
    let w : Word := op ++ dr ++ sr ++ b5 ++ b4 ++ k
    fieldOpcode w = op ∧ fieldDR w = dr ∧ fieldSR1 w = sr ∧ bit w 5 = b5.getLsbD 0 ∧ bit w 4 = b4.getLsbD 0 ∧
      fieldAmount4 w = k := by
  refine ⟨?_, ?_, ?_, ?_, ?_, ?_⟩
  · show (op ++ dr ++ sr ++ b5 ++ b4 ++ k).extractLsb' 12 4 = op
    repeat rw [extractLsb'_append_eq_of_le (by decide)]
    exact extractLsb'_eq_self
  · show (op ++ dr ++ sr ++ b5 ++ b4 ++ k).extractLsb' 9 3 = dr
    repeat rw [extractLsb'_append_eq_of_le (by decide)]
    exact extractLsb'_append_eq_right
  · show (op ++ dr ++ sr ++ b5 ++ b4 ++ k).extractLsb' 6 3 = sr
    repeat rw [extractLsb'_append_eq_of_le (by decide)]
    exact extractLsb'_append_eq_right
  · show (op ++ dr ++ sr ++ b5 ++ b4 ++ k).getLsbD 5 = _
    simp only [getLsbD_append]
    rfl
  · show (op ++ dr ++ sr ++ b5 ++ b4 ++ k).getLsbD 4 = _
    simp only [getLsbD_append]
    rfl
  · exact extractLsb'_append_eq_right

theorem parts_shift (w : Word) :
    fieldOpcode w ++ fieldDR w ++ fieldSR1 w ++ BitVec.ofBool (bit w 5) ++ BitVec.ofBool (bit w 4) ++ fieldAmount4 w = w := by
  rw [ofBool_bit, ofBool_bit]
  show w.extractLsb' 12 4 ++ w.extractLsb' 9 3 ++ w.extractLsb' 6 3 ++ w.extractLsb' 5 1 ++ w.extractLsb' 4 1 ++
    w.extractLsb' 0 4 = w
  repeat rw [extractLsb'_append_extractLsb'_eq_extractLsb' (by decide)]
  exact extractLsb'_eq_self

theorem mask_shift (op : BitVec 4) (dr : BitVec 3) (sr : BitVec 3) (b5 : BitVec 1) (b4 : BitVec 1) (k : BitVec 4) :
    (op ++ dr ++ sr ++ b5 ++ b4 ++ k : Word) &&& ~~~0x0020#16 = op ++ dr ++ sr ++ 0#1 ++ b4 ++ k := by
  show (op ++ dr ++ sr ++ b5 ++ b4 ++ k) &&& (allOnes 4 ++ allOnes 3 ++ allOnes 3 ++ 0#1 ++ allOnes 1 ++ allOnes 4) = _
  simp only [and_append, and_allOnes, and_zero]

/-- The format with its unread bits cleared (R90). -/
theorem keep_shift (w : Word) :
    fieldOpcode w ++ fieldDR w ++ fieldSR1 w ++ 0#1 ++ BitVec.ofBool (bit w 4) ++ fieldAmount4 w = w &&& ~~~0x0020#16 :=
  (mask_shift ..).symm.trans (congrArg (· &&& ~~~0x0020#16) (parts_shift w))

/-- What is read from a word of the format of the loads and stores, and the jumps. -/
theorem read_baseOffset (op : BitVec 4) (dr : BitVec 3) (base : BitVec 3) (off : BitVec 6) :
    let w : Word := op ++ dr ++ base ++ off
    fieldOpcode w = op ∧ fieldDR w = dr ∧ fieldSR1 w = base ∧ fieldOffset6 w = off := by
  refine ⟨?_, ?_, ?_, ?_⟩
  · show (op ++ dr ++ base ++ off).extractLsb' 12 4 = op
    repeat rw [extractLsb'_append_eq_of_le (by decide)]
    exact extractLsb'_eq_self
  · show (op ++ dr ++ base ++ off).extractLsb' 9 3 = dr
    repeat rw [extractLsb'_append_eq_of_le (by decide)]
    exact extractLsb'_append_eq_right
  · show (op ++ dr ++ base ++ off).extractLsb' 6 3 = base
    repeat rw [extractLsb'_append_eq_of_le (by decide)]
    exact extractLsb'_append_eq_right
  · exact extractLsb'_append_eq_right

theorem parts_baseOffset (w : Word) :
    fieldOpcode w ++ fieldDR w ++ fieldSR1 w ++ fieldOffset6 w = w := by
  show w.extractLsb' 12 4 ++ w.extractLsb' 9 3 ++ w.extractLsb' 6 3 ++ w.extractLsb' 0 6 = w
  repeat rw [extractLsb'_append_extractLsb'_eq_extractLsb' (by decide)]
  exact extractLsb'_eq_self

theorem mask_baseOffset (op : BitVec 4) (dr : BitVec 3) (base : BitVec 3) (off : BitVec 6) :
    (op ++ dr ++ base ++ off : Word) &&& ~~~0x0E3F#16 = op ++ 0#3 ++ base ++ 0#6 := by
  show (op ++ dr ++ base ++ off) &&& (allOnes 4 ++ 0#3 ++ allOnes 3 ++ 0#6) = _
  simp only [and_append, and_allOnes, and_zero]

/-- The format with its unread bits cleared (R90). -/
theorem keep_baseOffset (w : Word) :
    fieldOpcode w ++ 0#3 ++ fieldSR1 w ++ 0#6 = w &&& ~~~0x0E3F#16 :=
  (mask_baseOffset ..).symm.trans (congrArg (· &&& ~~~0x0E3F#16) (parts_baseOffset w))

/-- What is read from a word of the format of LEA. -/
theorem read_pcOffset9 (op : BitVec 4) (dr : BitVec 3) (off : BitVec 9) :
    let w : Word := op ++ dr ++ off
    fieldOpcode w = op ∧ fieldDR w = dr ∧ fieldPcOffset9 w = off := by
  refine ⟨?_, ?_, ?_⟩
  · show (op ++ dr ++ off).extractLsb' 12 4 = op
    repeat rw [extractLsb'_append_eq_of_le (by decide)]
    exact extractLsb'_eq_self
  · show (op ++ dr ++ off).extractLsb' 9 3 = dr
    repeat rw [extractLsb'_append_eq_of_le (by decide)]
    exact extractLsb'_append_eq_right
  · exact extractLsb'_append_eq_right

theorem parts_pcOffset9 (w : Word) :
    fieldOpcode w ++ fieldDR w ++ fieldPcOffset9 w = w := by
  show w.extractLsb' 12 4 ++ w.extractLsb' 9 3 ++ w.extractLsb' 0 9 = w
  repeat rw [extractLsb'_append_extractLsb'_eq_extractLsb' (by decide)]
  exact extractLsb'_eq_self

/-- What is read from a word of the format of BR. -/
theorem read_branch (op : BitVec 4) (n : BitVec 1) (z : BitVec 1) (p : BitVec 1) (off : BitVec 9) :
    let w : Word := op ++ n ++ z ++ p ++ off
    fieldOpcode w = op ∧ bit w 11 = n.getLsbD 0 ∧ bit w 10 = z.getLsbD 0 ∧ bit w 9 = p.getLsbD 0 ∧
      fieldPcOffset9 w = off := by
  refine ⟨?_, ?_, ?_, ?_, ?_⟩
  · show (op ++ n ++ z ++ p ++ off).extractLsb' 12 4 = op
    repeat rw [extractLsb'_append_eq_of_le (by decide)]
    exact extractLsb'_eq_self
  · show (op ++ n ++ z ++ p ++ off).getLsbD 11 = _
    simp only [getLsbD_append]
    rfl
  · show (op ++ n ++ z ++ p ++ off).getLsbD 10 = _
    simp only [getLsbD_append]
    rfl
  · show (op ++ n ++ z ++ p ++ off).getLsbD 9 = _
    simp only [getLsbD_append]
    rfl
  · exact extractLsb'_append_eq_right

theorem parts_branch (w : Word) :
    fieldOpcode w ++ BitVec.ofBool (bit w 11) ++ BitVec.ofBool (bit w 10) ++ BitVec.ofBool (bit w 9) ++
      fieldPcOffset9 w = w := by
  rw [ofBool_bit, ofBool_bit, ofBool_bit]
  show w.extractLsb' 12 4 ++ w.extractLsb' 11 1 ++ w.extractLsb' 10 1 ++ w.extractLsb' 9 1 ++ w.extractLsb' 0 9 = w
  repeat rw [extractLsb'_append_extractLsb'_eq_extractLsb' (by decide)]
  exact extractLsb'_eq_self

/-- What is read from a word of the format of JSR. -/
theorem read_jsr (op : BitVec 4) (b11 : BitVec 1) (off : BitVec 11) :
    let w : Word := op ++ b11 ++ off
    fieldOpcode w = op ∧ bit w 11 = b11.getLsbD 0 ∧ fieldPcOffset11 w = off := by
  refine ⟨?_, ?_, ?_⟩
  · show (op ++ b11 ++ off).extractLsb' 12 4 = op
    repeat rw [extractLsb'_append_eq_of_le (by decide)]
    exact extractLsb'_eq_self
  · show (op ++ b11 ++ off).getLsbD 11 = _
    simp only [getLsbD_append]
    rfl
  · exact extractLsb'_append_eq_right

theorem parts_jsr (w : Word) :
    fieldOpcode w ++ BitVec.ofBool (bit w 11) ++ fieldPcOffset11 w = w := by
  rw [ofBool_bit]
  show w.extractLsb' 12 4 ++ w.extractLsb' 11 1 ++ w.extractLsb' 0 11 = w
  repeat rw [extractLsb'_append_extractLsb'_eq_extractLsb' (by decide)]
  exact extractLsb'_eq_self

/-- What is read from a word of the format of JSRR. -/
theorem read_jsrr (op : BitVec 4) (b11 : BitVec 1) (x : BitVec 2) (base : BitVec 3) (y : BitVec 6) :
    let w : Word := op ++ b11 ++ x ++ base ++ y
    fieldOpcode w = op ∧ bit w 11 = b11.getLsbD 0 ∧ fieldSR1 w = base := by
  refine ⟨?_, ?_, ?_⟩
  · show (op ++ b11 ++ x ++ base ++ y).extractLsb' 12 4 = op
    repeat rw [extractLsb'_append_eq_of_le (by decide)]
    exact extractLsb'_eq_self
  · show (op ++ b11 ++ x ++ base ++ y).getLsbD 11 = _
    simp only [getLsbD_append]
    rfl
  · show (op ++ b11 ++ x ++ base ++ y).extractLsb' 6 3 = base
    repeat rw [extractLsb'_append_eq_of_le (by decide)]
    exact extractLsb'_append_eq_right

theorem parts_jsrr (w : Word) :
    fieldOpcode w ++ BitVec.ofBool (bit w 11) ++ w.extractLsb' 9 2 ++ fieldSR1 w ++ w.extractLsb' 0 6 = w := by
  rw [ofBool_bit]
  show w.extractLsb' 12 4 ++ w.extractLsb' 11 1 ++ w.extractLsb' 9 2 ++ w.extractLsb' 6 3 ++ w.extractLsb' 0 6 = w
  repeat rw [extractLsb'_append_extractLsb'_eq_extractLsb' (by decide)]
  exact extractLsb'_eq_self

theorem mask_jsrr (op : BitVec 4) (b11 : BitVec 1) (x : BitVec 2) (base : BitVec 3) (y : BitVec 6) :
    (op ++ b11 ++ x ++ base ++ y : Word) &&& ~~~0x063F#16 = op ++ b11 ++ 0#2 ++ base ++ 0#6 := by
  show (op ++ b11 ++ x ++ base ++ y) &&& (allOnes 4 ++ allOnes 1 ++ 0#2 ++ allOnes 3 ++ 0#6) = _
  simp only [and_append, and_allOnes, and_zero]

/-- The format with its unread bits cleared (R90). -/
theorem keep_jsrr (w : Word) :
    fieldOpcode w ++ BitVec.ofBool (bit w 11) ++ 0#2 ++ fieldSR1 w ++ 0#6 = w &&& ~~~0x063F#16 :=
  (mask_jsrr ..).symm.trans (congrArg (· &&& ~~~0x063F#16) (parts_jsrr w))

/-- What is read from a word of the format of TRAP. -/
theorem read_trapVector (op : BitVec 4) (x : BitVec 4) (vec : BitVec 8) :
    let w : Word := op ++ x ++ vec
    fieldOpcode w = op ∧ fieldTrapvect8 w = vec := by
  refine ⟨?_, ?_⟩
  · show (op ++ x ++ vec).extractLsb' 12 4 = op
    repeat rw [extractLsb'_append_eq_of_le (by decide)]
    exact extractLsb'_eq_self
  · exact extractLsb'_append_eq_right

theorem parts_trapVector (w : Word) :
    fieldOpcode w ++ w.extractLsb' 8 4 ++ fieldTrapvect8 w = w := by
  show w.extractLsb' 12 4 ++ w.extractLsb' 8 4 ++ w.extractLsb' 0 8 = w
  repeat rw [extractLsb'_append_extractLsb'_eq_extractLsb' (by decide)]
  exact extractLsb'_eq_self

theorem mask_trapVector (op : BitVec 4) (x : BitVec 4) (vec : BitVec 8) :
    (op ++ x ++ vec : Word) &&& ~~~0x0F00#16 = op ++ 0#4 ++ vec := by
  show (op ++ x ++ vec) &&& (allOnes 4 ++ 0#4 ++ allOnes 8) = _
  simp only [and_append, and_allOnes, and_zero]

/-- The format with its unread bits cleared (R90). -/
theorem keep_trapVector (w : Word) :
    fieldOpcode w ++ 0#4 ++ fieldTrapvect8 w = w &&& ~~~0x0F00#16 :=
  (mask_trapVector ..).symm.trans (congrArg (· &&& ~~~0x0F00#16) (parts_trapVector w))

/-- What is read from a word of the format of the opcodes with no function. -/
theorem read_opcodeOnly (op : BitVec 4) (x : BitVec 12) :
    fieldOpcode (op ++ x : Word) = op := by
  show (op ++ x).extractLsb' 12 4 = op
  repeat rw [extractLsb'_append_eq_of_le (by decide)]
  exact extractLsb'_eq_self

theorem parts_opcodeOnly (w : Word) :
    fieldOpcode w ++ w.extractLsb' 0 12 = w := by
  show w.extractLsb' 12 4 ++ w.extractLsb' 0 12 = w
  repeat rw [extractLsb'_append_extractLsb'_eq_extractLsb' (by decide)]
  exact extractLsb'_eq_self

theorem mask_opcodeOnly (op : BitVec 4) (x : BitVec 12) :
    (op ++ x : Word) &&& ~~~0x0FFF#16 = op ++ 0#12 := by
  show (op ++ x) &&& (allOnes 4 ++ 0#12) = _
  simp only [and_append, and_allOnes, and_zero]

/-- The format with its unread bits cleared (R90). -/
theorem keep_opcodeOnly (w : Word) :
    fieldOpcode w ++ 0#12 = w &&& ~~~0x0FFF#16 :=
  (mask_opcodeOnly ..).symm.trans (congrArg (· &&& ~~~0x0FFF#16) (parts_opcodeOnly w))

end Sys2Proof
end

section
/-! The decoder against the encoder, the opcode table and the control store. -/

namespace Sys2Proof

open Machine Machine.Bits

theorem bytesOfWord_eq (w : Word) : bytesOfWord w = [w.extractLsb' 0 8, w.extractLsb' 8 8] := rfl

/-- The two bytes of a word make the word (20_memory.md R54). -/
theorem wordOfBytes_bytesOfWord (w : Word) : wordOfBytes (w.extractLsb' 0 8) (w.extractLsb' 8 8) = w :=
  calc w.extractLsb' 8 8 ++ w.extractLsb' 0 8 = w.extractLsb' 0 16 :=
        BitVec.extractLsb'_append_extractLsb'_eq_extractLsb' rfl
    _ = w := BitVec.extractLsb'_eq_self

theorem getLsbD_ofBool_zero (b : Bool) : (BitVec.ofBool b).getLsbD 0 = b := by
  cases b <;> rfl

/-- A branch that asks for nothing is not the zero word unless its offset is 0, where the word is NOP's (30_encoding.md R87). -/
theorem encode_br_ne_zero {n z p : Bool} {off : BitVec 9} (h : (Instr.br n z p off).wellFormed = true) :
    encode (.br n z p off) ≠ 0x0000#16 := by
  obtain ⟨-, hn, hz, hp, hoff⟩ := read_branch 0b0000#4 (BitVec.ofBool n) (BitVec.ofBool z) (BitVec.ofBool p) off
  rw [getLsbD_ofBool_zero] at hn hz hp
  intro hzero
  replace hzero : (0b0000#4 ++ BitVec.ofBool n ++ BitVec.ofBool z ++ BitVec.ofBool p ++ off : Word) = 0x0000#16 := hzero
  rw [hzero] at hn hz hp hoff
  rw [← hn, ← hz, ← hp, ← hoff] at h
  exact absurd h (by decide)

/-- Every well-formed instruction is what its word reads as. -/
theorem decodes_encode (i : Instr) (h : i.wellFormed = true) : Decodes (encode i) i := by
  cases i with
  | addReg dr sr1 sr2 =>
    obtain ⟨hop, hdr, hsr1, h5, hsr2⟩ := read_operateReg 0b0001#4 dr sr1 0b0#1 0b00#2 sr2
    have := Decodes.addReg hop h5
    rwa [hdr, hsr1, hsr2] at this
  | addImm dr sr1 imm5 =>
    obtain ⟨hop, hdr, hsr1, h5, himm⟩ := read_operateImm 0b0001#4 dr sr1 0b1#1 imm5
    have := Decodes.addImm hop h5
    rwa [hdr, hsr1, himm] at this
  | andReg dr sr1 sr2 =>
    obtain ⟨hop, hdr, hsr1, h5, hsr2⟩ := read_operateReg 0b0101#4 dr sr1 0b0#1 0b00#2 sr2
    have := Decodes.andReg hop h5
    rwa [hdr, hsr1, hsr2] at this
  | andImm dr sr1 imm5 =>
    obtain ⟨hop, hdr, hsr1, h5, himm⟩ := read_operateImm 0b0101#4 dr sr1 0b1#1 imm5
    have := Decodes.andImm hop h5
    rwa [hdr, hsr1, himm] at this
  | xorReg dr sr1 sr2 =>
    obtain ⟨hop, hdr, hsr1, h5, hsr2⟩ := read_operateReg 0b1001#4 dr sr1 0b0#1 0b00#2 sr2
    have := Decodes.xorReg hop h5
    rwa [hdr, hsr1, hsr2] at this
  | xorImm dr sr1 imm5 =>
    obtain ⟨hop, hdr, hsr1, h5, himm⟩ := read_operateImm 0b1001#4 dr sr1 0b1#1 imm5
    have hne : imm5 ≠ 0b11111#5 := bne_iff_ne.mp h
    have := Decodes.xorImm hop h5 (by rwa [himm])
    rwa [hdr, hsr1, himm] at this
  | notReg dr sr =>
    obtain ⟨hop, hdr, hsr1, h5, himm⟩ := read_operateImm 0b1001#4 dr sr 0b1#1 0b11111#5
    have := Decodes.notReg hop h5 himm
    rwa [hdr, hsr1] at this
  | lshf dr sr k =>
    obtain ⟨hop, hdr, hsr, h5, h4, hk⟩ := read_shift 0b1101#4 dr sr 0b0#1 0b0#1 k
    have := Decodes.lshf hop h4
    rwa [hdr, hsr, hk] at this
  | rshfl dr sr k =>
    obtain ⟨hop, hdr, hsr, h5, h4, hk⟩ := read_shift 0b1101#4 dr sr 0b0#1 0b1#1 k
    have := Decodes.rshfl hop h4 h5
    rwa [hdr, hsr, hk] at this
  | rshfa dr sr k =>
    obtain ⟨hop, hdr, hsr, h5, h4, hk⟩ := read_shift 0b1101#4 dr sr 0b1#1 0b1#1 k
    have := Decodes.rshfa hop h4 h5
    rwa [hdr, hsr, hk] at this
  | lea dr off =>
    obtain ⟨hop, hdr, hoff⟩ := read_pcOffset9 0b1110#4 dr off
    have := Decodes.lea hop
    rwa [hdr, hoff] at this
  | ldb dr base off =>
    obtain ⟨hop, hdr, hbase, hoff⟩ := read_baseOffset 0b0010#4 dr base off
    have := Decodes.ldb hop
    rwa [hdr, hbase, hoff] at this
  | ldw dr base off =>
    obtain ⟨hop, hdr, hbase, hoff⟩ := read_baseOffset 0b0110#4 dr base off
    have := Decodes.ldw hop
    rwa [hdr, hbase, hoff] at this
  | stb sr base off =>
    obtain ⟨hop, hsr, hbase, hoff⟩ := read_baseOffset 0b0011#4 sr base off
    have := Decodes.stb hop
    rwa [hsr, hbase, hoff] at this
  | stw sr base off =>
    obtain ⟨hop, hsr, hbase, hoff⟩ := read_baseOffset 0b0111#4 sr base off
    have := Decodes.stw hop
    rwa [hsr, hbase, hoff] at this
  | br n z p off =>
    obtain ⟨hop, hn, hz, hp, hoff⟩ := read_branch 0b0000#4 (BitVec.ofBool n) (BitVec.ofBool z) (BitVec.ofBool p) off
    rw [getLsbD_ofBool_zero] at hn hz hp
    have := Decodes.br hop (encode_br_ne_zero h)
    rwa [hn, hz, hp, hoff] at this
  | nop => exact .nop rfl
  | jmp base =>
    obtain ⟨hop, -, hbase, -⟩ := read_baseOffset 0b1100#4 0b000#3 base 0b000000#6
    have hne : base ≠ 7#3 := bne_iff_ne.mp h
    have := Decodes.jmp hop (by rwa [hbase])
    rwa [hbase] at this
  | ret => exact .ret rfl rfl
  | jsr off =>
    obtain ⟨hop, h11, hoff⟩ := read_jsr 0b0100#4 0b1#1 off
    have := Decodes.jsr hop h11
    rwa [hoff] at this
  | jsrr base =>
    obtain ⟨hop, h11, hbase⟩ := read_jsrr 0b0100#4 0b0#1 0b00#2 base 0b000000#6
    have := Decodes.jsrr hop h11
    rwa [hbase] at this
  | trap vec =>
    obtain ⟨hop, hvec⟩ := read_trapVector 0b1111#4 0b0000#4 vec
    have hne : vec ≠ 0x25#8 := bne_iff_ne.mp h
    have := Decodes.trap hop (by rwa [hvec])
    rwa [hvec] at this
  | halt => exact .halt rfl rfl
  | rti => exact .rti rfl
  | reserved1010 => exact .reserved1010 rfl
  | reserved1011 => exact .reserved1011 rfl

/-- Settles O1: the word reads as the instruction, and its two bytes make the word. -/
theorem decodeEncodeRoundTrip : Obligations.DecodeEncodeRoundTrip := by
  unfold Obligations.DecodeEncodeRoundTrip
  intro i rest h
  have hword : decodeWord (encode i) = i := (decodes_encode i h).eq
  refine ⟨hword, ?_⟩
  rw [bytesOfWord_eq, List.cons_append, List.cons_append, List.nil_append, decode_pair, wordOfBytes_bytesOfWord, hword]

/-- What a word reads as is well-formed: a narrower row's operand is read as that row (R87). -/
theorem Decodes.wellFormed {w : Word} {i : Instr} (h : Decodes w i) : i.wellFormed = true := by
  cases h with
  | xorImm _ _ himm => exact bne_iff_ne.mpr himm
  | br hop hw =>
    by_contra hnone
    refine hw ?_
    simp only [Instr.wellFormed, Bool.not_eq_true, Bool.or_eq_false_iff, bne_eq_false_iff_eq] at hnone
    obtain ⟨⟨⟨hn, hz⟩, hp⟩, hoff⟩ := hnone
    rw [← parts_branch w, hop, hn, hz, hp, hoff]
    rfl
  | jmp _ hbase => exact bne_iff_ne.mpr hbase
  | trap _ hvec => exact bne_iff_ne.mpr hvec
  | _ => rfl

theorem and_not_zero (w : Word) : w &&& ~~~0x0000#16 = w := BitVec.and_allOnes

/-- Encoding what a word reads as keeps every bit that is read (R90). -/
theorem Decodes.encode_eq {w : Word} {i : Instr} (h : Decodes w i) : encode i = w &&& ~~~(ignoredBits i) := by
  cases h with
  | addReg hop h5 | andReg hop h5 | xorReg hop h5 =>
    have hkeep := keep_operateReg w
    rw [hop, h5] at hkeep
    exact hkeep
  | addImm hop h5 | andImm hop h5 | xorImm hop h5 _ =>
    have hparts := parts_operateImm w
    rw [hop, h5] at hparts
    exact hparts.trans (and_not_zero w).symm
  | notReg hop h5 himm =>
    have hparts := parts_operateImm w
    rw [hop, h5, himm] at hparts
    exact hparts.trans (and_not_zero w).symm
  | lshf hop h4 =>
    have hkeep := keep_shift w
    rw [hop, h4] at hkeep
    exact hkeep
  | rshfl hop h4 h5 | rshfa hop h4 h5 =>
    have hparts := parts_shift w
    rw [hop, h4, h5] at hparts
    exact hparts.trans (and_not_zero w).symm
  | lea hop =>
    have hparts := parts_pcOffset9 w
    rw [hop] at hparts
    exact hparts.trans (and_not_zero w).symm
  | ldb hop | ldw hop | stb hop | stw hop =>
    have hparts := parts_baseOffset w
    rw [hop] at hparts
    exact hparts.trans (and_not_zero w).symm
  | br hop _ =>
    have hparts := parts_branch w
    rw [hop] at hparts
    exact hparts.trans (and_not_zero w).symm
  | nop hw => rw [hw]; rfl
  | jmp hop _ =>
    have hkeep := keep_baseOffset w
    rw [hop] at hkeep
    exact hkeep
  | ret hop hbase =>
    have hkeep := keep_baseOffset w
    rw [hop, hbase] at hkeep
    exact hkeep
  | jsr hop h11 =>
    have hparts := parts_jsr w
    rw [hop, h11] at hparts
    exact hparts.trans (and_not_zero w).symm
  | jsrr hop h11 =>
    have hkeep := keep_jsrr w
    rw [hop, h11] at hkeep
    exact hkeep
  | trap hop _ =>
    have hkeep := keep_trapVector w
    rw [hop] at hkeep
    exact hkeep
  | halt hop hvec =>
    have hkeep := keep_trapVector w
    rw [hop, hvec] at hkeep
    exact hkeep
  | rti hop | reserved1010 hop | reserved1011 hop =>
    have hkeep := keep_opcodeOnly w
    rw [hop] at hkeep
    exact hkeep

/-- Settles O2. -/
theorem encodeDecodeKeepsReadBits : Obligations.EncodeDecodeKeepsReadBits := by
  unfold Obligations.EncodeDecodeKeepsReadBits
  exact fun w => ⟨(decodes w).wellFormed, (decodes w).encode_eq⟩

/-! ### Words that agree in the bits that are read -/

/-- Two words differ at most in the bits of `m`. -/
def AgreeBut (m w w' : Word) : Prop := (w ^^^ w') &&& ~~~m = 0x0000#16

theorem AgreeBut.part {m w w' : Word} (h : AgreeBut m w w') (start len : Nat)
    (hm : (~~~m).extractLsb' start len = BitVec.allOnes len) : w'.extractLsb' start len = w.extractLsb' start len := by
  have hx := congrArg (BitVec.extractLsb' start len) h
  rw [BitVec.extractLsb'_and, BitVec.extractLsb'_xor, hm, BitVec.and_allOnes, BitVec.extractLsb'_zero,
    BitVec.xor_eq_zero_iff] at hx
  exact hx.symm

theorem AgreeBut.bit {m w w' : Word} (h : AgreeBut m w w') (i : Nat) (hi : IndexOk 16 i)
    (hm : (~~~m).extractLsb' i 1 = BitVec.allOnes 1) : Bits.bit w' i hi = Bits.bit w i hi := by
  have hpart := h.part i 1 hm
  rw [← ofBool_bit w' i hi, ← ofBool_bit w i hi] at hpart
  rw [← getLsbD_ofBool_zero (Bits.bit w' i hi), hpart, getLsbD_ofBool_zero]

/-- No opcode bit is ignored (R90). -/
theorem opcode_not_ignored (i : Instr) : (~~~(ignoredBits i)).extractLsb' 12 4 = BitVec.allOnes 4 := by
  cases i <;> simp only [ignoredBits] <;> decide

/-- A word that agrees in the bits that are read reads as the same instruction. -/
theorem Decodes.of_agree {w w' : Word} {i : Instr} (h : Decodes w i) (hag : AgreeBut (ignoredBits i) w w') :
    Decodes w' i := by
  have hop' : fieldOpcode w' = fieldOpcode w := hag.part 12 4 (opcode_not_ignored i)
  cases h with
  | addReg hop h5 =>
    replace hag : AgreeBut 0x0018#16 w w' := hag
    have := Decodes.addReg (hop'.trans hop) ((hag.bit 5 _ (by decide)).trans h5)
    rwa [show fieldDR w' = fieldDR w from hag.part 9 3 (by decide),
      show fieldSR1 w' = fieldSR1 w from hag.part 6 3 (by decide),
      show fieldSR2 w' = fieldSR2 w from hag.part 0 3 (by decide)] at this
  | andReg hop h5 =>
    replace hag : AgreeBut 0x0018#16 w w' := hag
    have := Decodes.andReg (hop'.trans hop) ((hag.bit 5 _ (by decide)).trans h5)
    rwa [show fieldDR w' = fieldDR w from hag.part 9 3 (by decide),
      show fieldSR1 w' = fieldSR1 w from hag.part 6 3 (by decide),
      show fieldSR2 w' = fieldSR2 w from hag.part 0 3 (by decide)] at this
  | xorReg hop h5 =>
    replace hag : AgreeBut 0x0018#16 w w' := hag
    have := Decodes.xorReg (hop'.trans hop) ((hag.bit 5 _ (by decide)).trans h5)
    rwa [show fieldDR w' = fieldDR w from hag.part 9 3 (by decide),
      show fieldSR1 w' = fieldSR1 w from hag.part 6 3 (by decide),
      show fieldSR2 w' = fieldSR2 w from hag.part 0 3 (by decide)] at this
  | lshf hop h4 =>
    replace hag : AgreeBut 0x0020#16 w w' := hag
    have := Decodes.lshf (hop'.trans hop) ((hag.bit 4 _ (by decide)).trans h4)
    rwa [show fieldDR w' = fieldDR w from hag.part 9 3 (by decide),
      show fieldSR1 w' = fieldSR1 w from hag.part 6 3 (by decide),
      show fieldAmount4 w' = fieldAmount4 w from hag.part 0 4 (by decide)] at this
  | jmp hop hbase =>
    replace hag : AgreeBut 0x0E3F#16 w w' := hag
    have hbase' : fieldSR1 w' = fieldSR1 w := hag.part 6 3 (by decide)
    have := Decodes.jmp (hop'.trans hop) (by rwa [hbase'])
    rwa [hbase'] at this
  | ret hop hbase =>
    replace hag : AgreeBut 0x0E3F#16 w w' := hag
    exact .ret (hop'.trans hop) ((hag.part 6 3 (by decide)).trans hbase)
  | jsrr hop h11 =>
    replace hag : AgreeBut 0x063F#16 w w' := hag
    have := Decodes.jsrr (hop'.trans hop) ((hag.bit 11 _ (by decide)).trans h11)
    rwa [show fieldSR1 w' = fieldSR1 w from hag.part 6 3 (by decide)] at this
  | trap hop hvec =>
    replace hag : AgreeBut 0x0F00#16 w w' := hag
    have hvec' : fieldTrapvect8 w' = fieldTrapvect8 w := hag.part 0 8 (by decide)
    have := Decodes.trap (hop'.trans hop) (by rwa [hvec'])
    rwa [hvec'] at this
  | halt hop hvec =>
    replace hag : AgreeBut 0x0F00#16 w w' := hag
    exact .halt (hop'.trans hop) ((hag.part 0 8 (by decide)).trans hvec)
  | rti hop => exact .rti (hop'.trans hop)
  | reserved1010 hop => exact .reserved1010 (hop'.trans hop)
  | reserved1011 hop => exact .reserved1011 (hop'.trans hop)
  | _ =>
    have hsame : w = w' := by
      have hx : w ^^^ w' = 0x0000#16 := (and_not_zero _).symm.trans hag
      rwa [BitVec.xor_eq_zero_iff] at hx
    subst hsame
    constructor <;> assumption

/-- Settles O4. -/
theorem ignoredBitsDecodeAlike : Obligations.IgnoredBitsDecodeAlike := by
  unfold Obligations.IgnoredBitsDecodeAlike
  exact fun w w' hag => ((decodes w).of_agree hag).eq

/-! ### The opcode table -/

/-- The word of every instruction matches the instruction's own row (R87). -/
theorem encode_in_row (i : Instr) : encode i &&& (tableRow i).1 = (tableRow i).2 := by
  cases i with
  | addReg dr a b => exact Laws.EncodeInRow.addReg dr a b
  | addImm dr a k => exact Laws.EncodeInRow.addImm dr a k
  | andReg dr a b => exact Laws.EncodeInRow.andReg dr a b
  | andImm dr a k => exact Laws.EncodeInRow.andImm dr a k
  | xorReg dr a b => exact Laws.EncodeInRow.xorReg dr a b
  | xorImm dr a k => exact Laws.EncodeInRow.xorImm dr a k
  | notReg dr a => exact Laws.EncodeInRow.notReg dr a
  | lshf dr a k => exact Laws.EncodeInRow.lshf dr a k
  | rshfl dr a k => exact Laws.EncodeInRow.rshfl dr a k
  | rshfa dr a k => exact Laws.EncodeInRow.rshfa dr a k
  | lea dr off => exact Laws.EncodeInRow.lea dr off
  | ldb dr b off => exact Laws.EncodeInRow.ldb dr b off
  | ldw dr b off => exact Laws.EncodeInRow.ldw dr b off
  | stb sr b off => exact Laws.EncodeInRow.stb sr b off
  | stw sr b off => exact Laws.EncodeInRow.stw sr b off
  | br n z p off => exact Laws.EncodeInRow.br n z p off
  | nop => exact Laws.EncodeInRow.nop
  | jmp b => exact Laws.EncodeInRow.jmp b
  | ret => exact Laws.EncodeInRow.ret
  | jsr off => exact Laws.EncodeInRow.jsr off
  | jsrr b => exact Laws.EncodeInRow.jsrr b
  | trap v => exact Laws.EncodeInRow.trap v
  | halt => exact Laws.EncodeInRow.halt
  | rti => exact Laws.EncodeInRow.rti
  | reserved1010 => exact Laws.EncodeInRow.reserved1010
  | reserved1011 => exact Laws.EncodeInRow.reserved1011

/-- No bit of a row's mask is ignored (R87, R90). -/
theorem mask_not_ignored (i : Instr) : ~~~(ignoredBits i) &&& (tableRow i).1 = (tableRow i).1 := by
  cases i <;> simp only [ignoredBits, tableRow] <;> decide

/-- A word matches the row it decodes to. -/
theorem matches_decoded_row (w : Word) : w &&& (tableRow (decodeWord w)).1 = (tableRow (decodeWord w)).2 :=
  calc w &&& (tableRow (decodeWord w)).1
      = w &&& ~~~(ignoredBits (decodeWord w)) &&& (tableRow (decodeWord w)).1 := by
        rw [BitVec.and_assoc, mask_not_ignored]
    _ = encode (decodeWord w) &&& (tableRow (decodeWord w)).1 := by rw [(decodes w).encode_eq]
    _ = (tableRow (decodeWord w)).2 := encode_in_row _

/-- A part of the word under the ones of a row's mask is that part of the row's match. -/
theorem part_of_row {w m v : Word} (h : w &&& m = v) (start len : Nat) {x : BitVec len}
    (hm : m.extractLsb' start len = BitVec.allOnes len) (hv : v.extractLsb' start len = x) :
    w.extractLsb' start len = x := by
  rw [← hv, ← h, BitVec.extractLsb'_and, hm, BitVec.and_allOnes]

theorem bit_of_row {w m v : Word} (h : w &&& m = v) (i : Nat) (hi : IndexOk 16 i) {b : Bool}
    (hm : m.extractLsb' i 1 = BitVec.allOnes 1) (hv : bit v i hi = b) : bit w i hi = b := by
  have hpart := part_of_row h i 1 hm rfl
  rw [← ofBool_bit w i hi, ← ofBool_bit v i hi] at hpart
  rw [← hv, ← getLsbD_ofBool_zero (bit w i hi), hpart, getLsbD_ofBool_zero]

/-- The decoder's row lies inside every other row the word matches (R87). -/
theorem decoded_row_inside (w : Word) (i : Instr) (h : w &&& (tableRow i).1 = (tableRow i).2) :
    (tableRow i).1 &&& (tableRow (decodeWord w)).1 = (tableRow i).1 := by
  cases i with
  | addReg _ _ _ =>
    replace h : w &&& 0xF020#16 = 0x1000#16 := h
    rw [(Decodes.addReg (part_of_row h 12 4 (by decide) (by decide)) (bit_of_row h 5 _ (by decide) (by decide))).eq]
    simp only [tableRow, BitVec.and_self]
  | addImm _ _ _ =>
    replace h : w &&& 0xF020#16 = 0x1020#16 := h
    rw [(Decodes.addImm (part_of_row h 12 4 (by decide) (by decide)) (bit_of_row h 5 _ (by decide) (by decide))).eq]
    simp only [tableRow, BitVec.and_self]
  | andReg _ _ _ =>
    replace h : w &&& 0xF020#16 = 0x5000#16 := h
    rw [(Decodes.andReg (part_of_row h 12 4 (by decide) (by decide)) (bit_of_row h 5 _ (by decide) (by decide))).eq]
    simp only [tableRow, BitVec.and_self]
  | andImm _ _ _ =>
    replace h : w &&& 0xF020#16 = 0x5020#16 := h
    rw [(Decodes.andImm (part_of_row h 12 4 (by decide) (by decide)) (bit_of_row h 5 _ (by decide) (by decide))).eq]
    simp only [tableRow, BitVec.and_self]
  | xorReg _ _ _ =>
    replace h : w &&& 0xF020#16 = 0x9000#16 := h
    rw [(Decodes.xorReg (part_of_row h 12 4 (by decide) (by decide)) (bit_of_row h 5 _ (by decide) (by decide))).eq]
    simp only [tableRow, BitVec.and_self]
  | xorImm _ _ _ =>
    replace h : w &&& 0xF020#16 = 0x9020#16 := h
    have h5 : bit w 5 = true := bit_of_row h 5 _ (by decide) (by decide)
    rw [decodeWord_xor (part_of_row h 12 4 (by decide) (by decide)), if_pos h5]
    split
    · exact (by decide : 0xF020#16 &&& 0xF03F#16 = 0xF020#16)
    · exact (by decide : 0xF020#16 &&& 0xF020#16 = 0xF020#16)
  | notReg _ _ =>
    replace h : w &&& 0xF03F#16 = 0x903F#16 := h
    rw [(Decodes.notReg (part_of_row h 12 4 (by decide) (by decide)) (bit_of_row h 5 _ (by decide) (by decide))
      (part_of_row h 0 5 (by decide) (by decide))).eq]
    simp only [tableRow, BitVec.and_self]
  | lshf _ _ _ =>
    replace h : w &&& 0xF010#16 = 0xD000#16 := h
    rw [(Decodes.lshf (part_of_row h 12 4 (by decide) (by decide)) (bit_of_row h 4 _ (by decide) (by decide))).eq]
    simp only [tableRow, BitVec.and_self]
  | rshfl _ _ _ =>
    replace h : w &&& 0xF030#16 = 0xD010#16 := h
    rw [(Decodes.rshfl (part_of_row h 12 4 (by decide) (by decide)) (bit_of_row h 4 _ (by decide) (by decide))
      (bit_of_row h 5 _ (by decide) (by decide))).eq]
    simp only [tableRow, BitVec.and_self]
  | rshfa _ _ _ =>
    replace h : w &&& 0xF030#16 = 0xD030#16 := h
    rw [(Decodes.rshfa (part_of_row h 12 4 (by decide) (by decide)) (bit_of_row h 4 _ (by decide) (by decide))
      (bit_of_row h 5 _ (by decide) (by decide))).eq]
    simp only [tableRow, BitVec.and_self]
  | lea _ _ =>
    replace h : w &&& 0xF000#16 = 0xE000#16 := h
    rw [decodeWord_lea (part_of_row h 12 4 (by decide) (by decide))]
    simp only [tableRow, BitVec.and_self]
  | ldb _ _ _ =>
    replace h : w &&& 0xF000#16 = 0x2000#16 := h
    rw [decodeWord_ldb (part_of_row h 12 4 (by decide) (by decide))]
    simp only [tableRow, BitVec.and_self]
  | ldw _ _ _ =>
    replace h : w &&& 0xF000#16 = 0x6000#16 := h
    rw [decodeWord_ldw (part_of_row h 12 4 (by decide) (by decide))]
    simp only [tableRow, BitVec.and_self]
  | stb _ _ _ =>
    replace h : w &&& 0xF000#16 = 0x3000#16 := h
    rw [decodeWord_stb (part_of_row h 12 4 (by decide) (by decide))]
    simp only [tableRow, BitVec.and_self]
  | stw _ _ _ =>
    replace h : w &&& 0xF000#16 = 0x7000#16 := h
    rw [decodeWord_stw (part_of_row h 12 4 (by decide) (by decide))]
    simp only [tableRow, BitVec.and_self]
  | br _ _ _ _ =>
    replace h : w &&& 0xF000#16 = 0x0000#16 := h
    rw [decodeWord_branch (part_of_row h 12 4 (by decide) (by decide))]
    split
    · exact (by decide : 0xF000#16 &&& 0xFFFF#16 = 0xF000#16)
    · exact (by decide : 0xF000#16 &&& 0xF000#16 = 0xF000#16)
  | nop =>
    replace h : w &&& 0xFFFF#16 = 0x0000#16 := h
    have hw : w = 0x0000#16 := (BitVec.and_allOnes (x := w)).symm.trans h
    rw [(Decodes.nop hw).eq]
    simp only [tableRow, BitVec.and_self]
  | jmp _ =>
    replace h : w &&& 0xF000#16 = 0xC000#16 := h
    rw [decodeWord_jump (part_of_row h 12 4 (by decide) (by decide))]
    split
    · exact (by decide : 0xF000#16 &&& 0xF1C0#16 = 0xF000#16)
    · exact (by decide : 0xF000#16 &&& 0xF000#16 = 0xF000#16)
  | ret =>
    replace h : w &&& 0xF1C0#16 = 0xC1C0#16 := h
    rw [(Decodes.ret (part_of_row h 12 4 (by decide) (by decide)) (part_of_row h 6 3 (by decide) (by decide))).eq]
    simp only [tableRow, BitVec.and_self]
  | jsr _ =>
    replace h : w &&& 0xF800#16 = 0x4800#16 := h
    rw [(Decodes.jsr (part_of_row h 12 4 (by decide) (by decide)) (bit_of_row h 11 _ (by decide) (by decide))).eq]
    simp only [tableRow, BitVec.and_self]
  | jsrr _ =>
    replace h : w &&& 0xF800#16 = 0x4000#16 := h
    rw [(Decodes.jsrr (part_of_row h 12 4 (by decide) (by decide)) (bit_of_row h 11 _ (by decide) (by decide))).eq]
    simp only [tableRow, BitVec.and_self]
  | trap _ =>
    replace h : w &&& 0xF000#16 = 0xF000#16 := h
    rw [decodeWord_trap (part_of_row h 12 4 (by decide) (by decide))]
    split
    · exact (by decide : 0xF000#16 &&& 0xF0FF#16 = 0xF000#16)
    · exact (by decide : 0xF000#16 &&& 0xF000#16 = 0xF000#16)
  | halt =>
    replace h : w &&& 0xF0FF#16 = 0xF025#16 := h
    rw [(Decodes.halt (part_of_row h 12 4 (by decide) (by decide)) (part_of_row h 0 8 (by decide) (by decide))).eq]
    simp only [tableRow, BitVec.and_self]
  | rti =>
    replace h : w &&& 0xF000#16 = 0x8000#16 := h
    rw [decodeWord_rti (part_of_row h 12 4 (by decide) (by decide))]
    simp only [tableRow, BitVec.and_self]
  | reserved1010 =>
    replace h : w &&& 0xF000#16 = 0xA000#16 := h
    rw [decodeWord_reserved1010 (part_of_row h 12 4 (by decide) (by decide))]
    simp only [tableRow, BitVec.and_self]
  | reserved1011 =>
    replace h : w &&& 0xF000#16 = 0xB000#16 := h
    rw [decodeWord_reserved1011 (part_of_row h 12 4 (by decide) (by decide))]
    simp only [tableRow, BitVec.and_self]

/-- Settles O3. -/
theorem decodePicksMostSpecificTableRow : Obligations.DecodePicksMostSpecificTableRow := by
  unfold Obligations.DecodePicksMostSpecificTableRow
  exact fun w => ⟨matches_decoded_row w, decoded_row_inside w⟩

/-- Settles O5: the words, evaluated. -/
theorem specWordsDecode : Obligations.SpecWordsDecode := by
  unfold Obligations.SpecWordsDecode
  exact ⟨rfl, rfl, rfl, rfl, rfl, rfl, rfl, rfl, rfl, rfl, rfl, rfl, rfl, rfl, rfl, rfl, rfl, rfl, rfl, rfl, rfl, rfl, rfl,
    rfl, rfl, rfl, rfl, rfl⟩

end Sys2Proof
end

section
/-! The rows of the reference control store by the instruction they control (41_control_store.md R131), and O40. -/

namespace Sys2Proof

open Machine Machine.Bits

/-- The row of `UCODE_REF` that controls an instruction, as R131 writes it. -/
def instrRow : Instr → ControlWord
  | .addReg _ _ _ => rowString 0b110_000000001_0000_000_1111#23
  | .addImm _ _ _ => rowString 0b100_000001001_0000_000_1111#23
  | .andReg _ _ _ => rowString 0b110_000000011_0000_000_1111#23
  | .andImm _ _ _ => rowString 0b100_000001011_0000_000_1111#23
  | .xorReg _ _ _ => rowString 0b110_000000101_0000_000_1111#23
  | .xorImm _ _ _ => rowString 0b100_000001101_0000_000_1111#23
  | .notReg _ _ => rowString 0b100_000001101_0000_000_1111#23
  | .lshf _ _ _ => rowString 0b100_000000000_0000_000_1111#23
  | .rshfl _ _ _ => rowString 0b100_000000000_0000_000_1111#23
  | .rshfa _ _ _ => rowString 0b100_000000000_0000_000_1111#23
  | .lea _ _ => rowString 0b000_010110000_0000_000_0010#23
  | .ldb _ _ _ => rowString 0b100_101010000_0000_100_0111#23
  | .ldw _ _ _ => rowString 0b100_101110000_0000_101_0111#23
  | .stb _ _ _ => rowString 0b110_101010111_0000_110_0000#23
  | .stw _ _ _ => rowString 0b110_101110111_0000_111_0000#23
  | .br _ _ _ _ => rowString 0b000_010110000_1001_000_0000#23
  | .nop => rowString 0b000_010110000_1001_000_0000#23
  | .jmp _ => rowString 0b100_100010000_0101_000_0000#23
  | .ret => rowString 0b100_100010000_0101_000_0000#23
  | .jsr _ => rowString 0b001_011110000_0101_000_1010#23
  | .jsrr _ => rowString 0b101_100010000_0101_000_1010#23
  | .trap _ => rowString 0b001_000000000_0011_101_1010#23
  | .halt => rowString 0b001_000000000_0011_101_1010#23
  | .rti => rowString 0b000_000000000_0000_000_0000#23
  | .reserved1010 => rowString 0b000_000000000_0000_000_0000#23
  | .reserved1011 => rowString 0b000_000000000_0000_000_0000#23

/-- The row number by the opcode and the two bits beside it (R121). -/
theorem controlRow_eq (w : Word) :
    controlRow w = fieldOpcode w ++ BitVec.ofBool (bit w 11) ++ BitVec.ofBool (bit w 5) := by
  have hhigh : fieldRowHigh w = fieldOpcode w ++ BitVec.ofBool (bit w 11) := by
    rw [fieldRowHigh_eq, fieldOpcode_eq, ofBool_bit]
    exact (BitVec.extractLsb'_append_extractLsb'_eq_extractLsb' (by decide : 12 = 11 + 1)).symm
  rw [controlRow, hhigh]

/-- The reference image answers the instruction's own row, whatever the bits that choose no row. -/
theorem ucodeRef_of_decodes {w : Word} {i : Instr} (h : Decodes w i) : ucodeRef (controlRow w) = instrRow i := by
  rw [controlRow_eq]
  cases h with
  | addReg hop h5 | andReg hop h5 | xorReg hop h5 => rw [hop, h5]; cases bit w 11 <;> rfl
  | addImm hop h5 | andImm hop h5 | xorImm hop h5 _ | notReg hop h5 _ => rw [hop, h5]; cases bit w 11 <;> rfl
  | lshf hop | rshfl hop | rshfa hop | lea hop | ldb hop | ldw hop | stb hop | stw hop | br hop _ | jmp hop _ | ret hop _
  | trap hop _ | halt hop _ | rti hop | reserved1010 hop | reserved1011 hop =>
    rw [hop]; cases bit w 11 <;> cases bit w 5 <;> rfl
  | nop hw => rw [hw]; rfl
  | jsr hop h11 | jsrr hop h11 => rw [hop, h11]; cases bit w 5 <;> rfl

theorem instrRow_brStall (i : Instr) : flagAt 0 (instrRow i) .brStall = isTransfer i := by
  cases i <;> (rw [instrRow, isTransfer]; decide)

/-- Only the opcodes with no function have the all-zero row (R132). -/
theorem instrRow_eq_zero_iff (i : Instr) : instrRow i = 0#23 ↔ i = .rti ∨ i = .reserved1010 ∨ i = .reserved1011 := by
  cases i with
  | rti | reserved1010 | reserved1011 => exact iff_of_true rfl (by simp)
  | _ => exact iff_of_false (by rw [instrRow]; decide) (by simp)

/-- Settles O40: row by row of the table. -/
theorem referenceImageStallsExactlyTransfers : Obligations.ReferenceImageStallsExactlyTransfers := by
  unfold Obligations.ReferenceImageStallsExactlyTransfers
  intro w
  rw [ucodeRef_of_decodes (decodes w)]
  exact ⟨instrRow_brStall _, instrRow_eq_zero_iff _⟩

end Sys2Proof
end

section
/-! What an instruction that stands in MEM does to the architectural state when it retires, as one function of the latch;
and that for a row of `UCODE_REF` it is what `exec` gives (48_isa_operate.md R250, 49_isa_memory_control.md R270). -/

namespace Sys2Proof.Machine

open Bits

/-- What the access of an instruction in MEM reads (44_stage_mem.md R164). -/
def MemLatch.loaded (l : MemLatch) (m : Memory) : Word :=
  if l.flag .dataSize then memReadWord m l.address else sext (m.byte l.address)

/-- What an instruction in MEM will write back (43_stage_sr.md R151), by the two bits of DR_VALUEMUX. -/
def MemLatch.result (l : MemLatch) (m : Memory) : Word :=
  if l.cs.getLsbD 7 then (if l.cs.getLsbD 8 then l.aluResult else l.npc)
  else (if l.cs.getLsbD 8 then l.loaded m else l.address)

/-- Where an instruction in MEM sends `pc` (44_stage_mem.md R168). -/
def MemLatch.nextPc (l : MemLatch) (m : Memory) : Word :=
  if l.flag .trapOp then l.loaded m else if l.flag .uncondOp || (l.flag .brOp && memBrCond l) then l.address else l.npc

/-- The memory behind an instruction in MEM (44_stage_mem.md R162, R163). -/
def MemLatch.stored (l : MemLatch) (m : Memory) : Memory :=
  if l.flag .dcacheEn && l.flag .dcacheRw then
    if l.flag .dataSize then memWriteWord m l.address l.aluResult else memWriteByte m l.address (range l.aluResult 7 0)
  else m

/-- The architectural state behind an instruction in MEM. -/
def MemLatch.retired (l : MemLatch) (s : State) : State :=
  { s with
    pc := l.nextPc s.memory
    regs := if l.flag .ldReg then writeReg s.regs l.drid (l.result s.memory) else s.regs
    cc := if l.flag .ldCc then ccOf (l.result s.memory) else s.cc
    memory := l.stored s.memory }

/-! The datapath does that. -/

section
variable (P : Params) (c : Nat) (m : Memory) (d : Nat) {l : MemLatch}

/-- The memory after the cycle in which the access is answered. -/
theorem memStage_memory_eq_stored (hv : l.v = true) (hport : l.flag .dcacheEn = true → P.dcacheReady c = true) :
    (memStage P c m d l).memory = l.stored m := by
  rw [memStage_memory_cases, MemLatch.stored]
  simp only [hv, true_and, Bool.and_eq_true]
  by_cases hen : l.flag .dcacheEn = true
  · rw [hport hen]
    simp only [and_true]
    rfl
  · rw [if_neg fun h => hen h.1, if_neg fun h => hen h.1]

theorem memData_eq_loaded (hv : l.v = true) (hen : l.flag .dcacheEn = true) (hready : P.dcacheReady c = true) :
    memData P c m d l = l.loaded m :=
  memData_of_access P c m d (Bool.and_eq_true_iff.mpr ⟨hv, hen⟩) hready

/-- What SR will write back; the word of a cycle without an access is free and must not be selected (log 6). -/
theorem srRegData_eq_result (hv : l.v = true) (hport : l.flag .dcacheEn = true → P.dcacheReady c = true)
    (hfree : l.flag .dcacheEn = true ∨ l.cs.getLsbD 7 = true ∨ l.cs.getLsbD 8 = false) :
    srRegData (srNext (memSignals P c m d l) l) = l.result m := by
  have h0 : (srNext (memSignals P c m d l) l).cs.getLsbD 0 = l.cs.getLsbD 7 := getLsbD_srSlice l.cs (by decide)
  have h1 : (srNext (memSignals P c m d l) l).cs.getLsbD 1 = l.cs.getLsbD 8 := getLsbD_srSlice l.cs (by decide)
  rw [srRegData_eq, h0, h1, MemLatch.result]
  rcases hfree with hen | h7 | h8
  · rw [show (srNext (memSignals P c m d l) l).data = l.loaded m from memData_eq_loaded P c m d hv hen (hport hen)]
    rfl
  · rw [h7]; rfl
  · rw [h8]; rfl

/-- Where `pc` goes when it is loaded. -/
theorem newPc_eq_nextPc (hv : l.v = true) (hport : l.flag .dcacheEn = true → P.dcacheReady c = true)
    (hfree : l.flag .trapOp = true → l.flag .dcacheEn = true) :
    newPc (memPcMux l) l.npc l.address (memData P c m d l) = l.nextPc m := by
  rw [memPcMux, MemLatch.nextPc, hv, if_neg (by decide)]
  by_cases ht : l.flag .trapOp = true
  · rw [if_pos ht, if_pos ht, ← memData_eq_loaded P c m d hv (hfree ht) (hport (hfree ht))]
    rfl
  · rw [if_neg ht, if_neg ht]
    split <;> rfl

end

/-! The rows of the reference image by their positions b12 to b22: bit `k` of a literal is position b12 + `k`. -/

theorem loaded_eq (l : MemLatch) (m : Memory) :
    l.loaded m = if l.cs.getLsbD 6 then memReadWord m l.address else sext (m.byte l.address) := rfl

/-- The architectural state behind an instruction in MEM by the raw bits of its slice. -/
theorem retired_eq (l : MemLatch) (s : State) : l.retired s =
    { s with
      pc := if l.cs.getLsbD 2 then l.loaded s.memory
        else if l.cs.getLsbD 1 || (l.cs.getLsbD 0 && memBrCond l) then l.address else l.npc
      regs := if l.cs.getLsbD 9 then writeReg s.regs l.drid (l.result s.memory) else s.regs
      cc := if l.cs.getLsbD 10 then ccOf (l.result s.memory) else s.cc
      memory := if l.cs.getLsbD 4 && l.cs.getLsbD 5 then
          if l.cs.getLsbD 6 then memWriteWord s.memory l.address l.aluResult
          else memWriteByte s.memory l.address (range l.aluResult 7 0)
        else s.memory } := rfl

theorem retired_jump {l : MemLatch} (s : State) (h : l.cs = 0b000_000_1010#11) : l.retired s = s.setPc l.address := by
  simp [retired_eq, h]; rfl

section
variable {l : MemLatch} {s : State} (hnpc : l.npc = s.pc + 2#16)
include hnpc

theorem retired_operate (h : l.cs = 0b1111_000_0000#11) : l.retired s = s.writeResult l.drid l.aluResult := by
  simp [retired_eq, MemLatch.result, h, hnpc]; rfl

theorem retired_lea (h : l.cs = 0b0100_000_0000#11) : l.retired s = s.writeAddress l.drid l.address := by
  simp [retired_eq, MemLatch.result, h, hnpc]; rfl

theorem retired_ldb (h : l.cs = 0b1110_001_0000#11) :
    l.retired s = s.writeResult l.drid (sext (s.memory.byte l.address)) := by
  simp [retired_eq, MemLatch.result, loaded_eq, h, hnpc]; rfl

theorem retired_ldw (h : l.cs = 0b1110_101_0000#11) :
    l.retired s = s.writeResult l.drid (memReadWord s.memory l.address) := by
  simp [retired_eq, MemLatch.result, loaded_eq, h, hnpc]; rfl

theorem retired_stb (h : l.cs = 0b0000_011_0000#11) :
    l.retired s = s.store (memWriteByte s.memory l.address (range l.aluResult 7 0)) := by
  simp [retired_eq, h, hnpc]; rfl

theorem retired_stw (h : l.cs = 0b0000_111_0000#11) :
    l.retired s = s.store (memWriteWord s.memory l.address l.aluResult) := by
  simp [retired_eq, h, hnpc]; rfl

theorem retired_branch (h : l.cs = 0b0000_000_1001#11) : l.retired s = s.branchIf (memBrCond l) l.address := by
  simp [retired_eq, h, hnpc]; rfl

theorem retired_call (h : l.cs = 0b0101_000_1010#11) (hlink : l.drid = linkReg) :
    l.retired s = s.callTo l.address := by
  simp [retired_eq, MemLatch.result, h, hnpc, hlink, linkReg]; rfl

theorem retired_trap (h : l.cs = 0b0101_101_1100#11) (hlink : l.drid = linkReg) :
    l.retired s = s.callTo (memReadWord s.memory l.address) := by
  simp [retired_eq, MemLatch.result, loaded_eq, h, hnpc, hlink, linkReg]; rfl

theorem retired_none (h : l.cs = 0b0000_000_0000#11) : l.retired s = s.advance := by
  simp [retired_eq, h, hnpc]; rfl

end

end Sys2Proof.Machine
end

section
/-! The instruction in AGEX, row by row of the reference image: what its address, its result and its retirement are. -/

namespace Sys2Proof.Machine

open Bits

/-- The AGEX latch holds the instruction `i`, decoded under the reference image, with the NPC of a state and the operands
and flags that `i` needs as the state has them (46_stage_decode_fetch.md R201 to R206). -/
structure Issued (s : State) (a : AgexLatch) (i : Instr) : Prop where
  decodes : Decodes a.ir i
  npc : a.npc = s.pc + 2#16
  cs : a.cs = agexSlice (instrRow i)
  drid : a.drid = dridOf (instrRow i) a.ir
  sr1 : flagAt 0 (instrRow i) .sr1Needed = true → a.sr1 = s.reg (sr1Id a.ir)
  sr2 : flagAt 0 (instrRow i) .sr2Needed = true → a.sr2 = s.reg (sr2Id a.ir)
  cc : flagAt 0 (instrRow i) .brOp = true → a.cc = s.cc

/-! The result and the address by the raw bits of AGEX_CS. -/

theorem agexResult_eq (a : AgexLatch) : agexResult a =
    if a.cs.getLsbD 8 then agexAluOut a else shifter (bit a.ir 4) (bit a.ir 5) a.sr1 (fieldAmount4 a.ir) := rfl

theorem agexOperandB_eq (a : AgexLatch) :
    agexOperandB a = if a.cs.getLsbD 5 then sext (fieldImm5 a.ir) else a.sr2 := rfl

theorem agexAddress_eq (a : AgexLatch) : agexAddress a =
    if a.cs.getLsbD 4 then (if a.cs.getLsbD 0 then a.sr1 else a.npc) + agexAddr2 a
    else trapVectorAddress (fieldTrapvect8 a.ir) := rfl

theorem agexAddr2_eq (a : AgexLatch) :
    agexAddr2 a = if a.cs.getLsbD 3 then timesTwo (agexAddr2Raw a) else agexAddr2Raw a := rfl

/-- IR[13], which selects the field of SR2, is a bit of the opcode. -/
theorem sr2Id_eq (w : Word) : sr2Id w = if (fieldOpcode w).getLsbD 1 then fieldDR w else fieldSR2 w := by
  have h13 : (fieldOpcode w).getLsbD 1 = bit w 13 := by simp [fieldOpcode_eq]
  rw [sr2Id, h13]

section
variable {s : State} {a : AgexLatch} {i : Instr} (held : MemLatch)

theorem Issued.mem_cs (h : Issued s a i) : (memNext false a held).cs = memSlice (agexSlice (instrRow i)) :=
  congrArg memSlice h.cs

theorem Issued.drid_eq (h : Issued s a i) (hmux : flagAt 0 (instrRow i) .drMux = false) : a.drid = fieldDR a.ir := by
  rw [h.drid, dridOf, hmux]; rfl

theorem Issued.drid_link (h : Issued s a i) (hmux : flagAt 0 (instrRow i) .drMux = true) : a.drid = linkReg := by
  rw [h.drid, dridOf, hmux]; rfl

theorem Issued.sr2_eq (h : Issued s a i) (hn : flagAt 0 (instrRow i) .sr2Needed = true) :
    a.sr2 = s.reg (if (fieldOpcode a.ir).getLsbD 1 then fieldDR a.ir else fieldSR2 a.ir) := by
  rw [h.sr2 hn, sr2Id_eq]

end

/-! AGEX by the row its latch carries (45_stage_agex.md R181 to R188): bit `k` of a literal is position b3 + `k`. -/

section
variable {a : AgexLatch}

theorem agexResult_addReg (h : a.cs = 0b1111_000_0000_1000_00000#20) : agexResult a = a.sr1 + a.sr2 := by
  simp [agexResult_eq, agexAluOut_eq, agexOperandB_eq, h]

theorem agexResult_addImm (h : a.cs = 0b1111_000_0000_1001_00000#20) :
    agexResult a = a.sr1 + (fieldImm5 a.ir).signExtend 16 := by
  simp [agexResult_eq, agexAluOut_eq, agexOperandB_eq, h, sext]

theorem agexResult_andReg (h : a.cs = 0b1111_000_0000_1100_00000#20) : agexResult a = a.sr1 &&& a.sr2 := by
  simp [agexResult_eq, agexAluOut_eq, agexOperandB_eq, h]

theorem agexResult_andImm (h : a.cs = 0b1111_000_0000_1101_00000#20) :
    agexResult a = a.sr1 &&& (fieldImm5 a.ir).signExtend 16 := by
  simp [agexResult_eq, agexAluOut_eq, agexOperandB_eq, h, sext]

theorem agexResult_xorReg (h : a.cs = 0b1111_000_0000_1010_00000#20) : agexResult a = a.sr1 ^^^ a.sr2 := by
  simp [agexResult_eq, agexAluOut_eq, agexOperandB_eq, h]

theorem agexResult_xorImm (h : a.cs = 0b1111_000_0000_1011_00000#20) :
    agexResult a = a.sr1 ^^^ (fieldImm5 a.ir).signExtend 16 := by
  simp [agexResult_eq, agexAluOut_eq, agexOperandB_eq, h, sext]

theorem agexResult_shift (h : a.cs = 0b1111_000_0000_0000_00000#20) :
    agexResult a = shifter (bit a.ir 4) (bit a.ir 5) a.sr1 (fieldAmount4 a.ir) := by
  simp [agexResult_eq, h]

theorem agexResult_stb (h : a.cs = 0b0000_011_0000_1110_10101#20) : agexResult a = a.sr2 := by
  simp [agexResult_eq, agexAluOut_eq, agexOperandB_eq, h]

theorem agexResult_stw (h : a.cs = 0b0000_111_0000_1110_11101#20) : agexResult a = a.sr2 := by
  simp [agexResult_eq, agexAluOut_eq, agexOperandB_eq, h]

theorem agexAddress_stb (h : a.cs = 0b0000_011_0000_1110_10101#20) :
    agexAddress a = byteAddress a.sr1 (fieldOffset6 a.ir) := by
  simp [agexAddress_eq, agexAddr2_eq, agexAddr2Raw_eq, h]; rfl

theorem agexAddress_stw (h : a.cs = 0b0000_111_0000_1110_11101#20) :
    agexAddress a = wordAddress a.sr1 (fieldOffset6 a.ir) := by
  simp [agexAddress_eq, agexAddr2_eq, agexAddr2Raw_eq, h]; rfl

theorem agexAddress_ldb (h : a.cs = 0b1110_001_0000_0000_10101#20) :
    agexAddress a = byteAddress a.sr1 (fieldOffset6 a.ir) := by
  simp [agexAddress_eq, agexAddr2_eq, agexAddr2Raw_eq, h]; rfl

theorem agexAddress_ldw (h : a.cs = 0b1110_101_0000_0000_11101#20) :
    agexAddress a = wordAddress a.sr1 (fieldOffset6 a.ir) := by
  simp [agexAddress_eq, agexAddr2_eq, agexAddr2Raw_eq, h]; rfl

theorem agexAddress_lea (h : a.cs = 0b0100_000_0000_0000_11010#20) :
    agexAddress a = pcRelative a.npc (fieldPcOffset9 a.ir) := by
  simp [agexAddress_eq, agexAddr2_eq, agexAddr2Raw_eq, h]; rfl

theorem agexAddress_branch (h : a.cs = 0b0000_000_1001_0000_11010#20) :
    agexAddress a = pcRelative a.npc (fieldPcOffset9 a.ir) := by
  simp [agexAddress_eq, agexAddr2_eq, agexAddr2Raw_eq, h]; rfl

theorem agexAddress_jsr (h : a.cs = 0b0101_000_1010_0000_11110#20) :
    agexAddress a = pcRelative a.npc (fieldPcOffset11 a.ir) := by
  simp [agexAddress_eq, agexAddr2_eq, agexAddr2Raw_eq, h]; rfl

theorem agexAddress_jump (h : a.cs = 0b0000_000_1010_0000_10001#20) : agexAddress a = a.sr1 := by
  simp [agexAddress_eq, agexAddr2_eq, agexAddr2Raw_eq, h]

theorem agexAddress_jsrr (h : a.cs = 0b0101_000_1010_0000_10001#20) : agexAddress a = a.sr1 := by
  simp [agexAddress_eq, agexAddr2_eq, agexAddr2Raw_eq, h]

theorem agexAddress_trap (h : a.cs = 0b0101_101_1100_0000_00000#20) :
    agexAddress a = trapVectorAddress (fieldTrapvect8 a.ir) := by
  simp [agexAddress_eq, h]

end

/-! What retires is what `exec` answers, by the rows of one kind. -/

section
variable {s : State} {a : AgexLatch} {i : Instr} (held : MemLatch)

theorem Issued.exec_operate (h : Issued s a i) {v : Word} (hexec : exec i s = .next (s.writeResult (fieldDR a.ir) v))
    (hrow : memSlice (agexSlice (instrRow i)) = 0b1111_000_0000#11 ∧ flagAt 0 (instrRow i) .drMux = false ∧
      flagAt 0 (instrRow i) .sr1Needed = true)
    (hv : a.sr1 = s.reg (fieldSR1 a.ir) → agexResult a = v) : exec i s = .next ((memNext false a held).retired s) := by
  obtain ⟨hcs, hmux, hn⟩ := hrow
  rw [hexec, retired_operate h.npc ((h.mem_cs held).trans hcs), ← h.drid_eq hmux, ← hv (h.sr1 hn)]
  rfl

theorem Issued.exec_load (h : Issued s a i) {v : Word} (hexec : exec i s = .next (s.writeResult (fieldDR a.ir) v))
    (hrow : flagAt 0 (instrRow i) .drMux = false ∧ flagAt 0 (instrRow i) .sr1Needed = true)
    (hv : a.sr1 = s.reg (fieldSR1 a.ir) → (memNext false a held).retired s = s.writeResult a.drid v) :
    exec i s = .next ((memNext false a held).retired s) := by
  obtain ⟨hmux, hn⟩ := hrow
  rw [hexec, hv (h.sr1 hn), h.drid_eq hmux]

/-- The stores name their operand register in IR[11:9]: IR[13] is 1 (46_stage_decode_fetch.md R203). -/
theorem Issued.exec_store (h : Issued s a i) {m : Memory} (hexec : exec i s = .next (s.store m))
    (hrow : flagAt 0 (instrRow i) .sr2Needed = true ∧ flagAt 0 (instrRow i) .sr1Needed = true)
    (hop : (fieldOpcode a.ir).getLsbD 1 = true)
    (hv : a.sr1 = s.reg (fieldSR1 a.ir) → a.sr2 = s.reg (fieldDR a.ir) → (memNext false a held).retired s = s.store m) :
    exec i s = .next ((memNext false a held).retired s) := by
  obtain ⟨hn2, hn1⟩ := hrow
  rw [hexec, hv (h.sr1 hn1) (by rw [h.sr2_eq hn2, hop]; rfl)]

theorem Issued.exec_branch (h : Issued s a i) (hexec : exec i s = .next (s.branchIf
      (branchCond (bit a.ir 11) (bit a.ir 10) (bit a.ir 9) s.cc) (pcRelative (s.pc + 2#16) (fieldPcOffset9 a.ir))))
    (hrow : agexSlice (instrRow i) = 0b0000_000_1001_0000_11010#20 ∧ flagAt 0 (instrRow i) .brOp = true) :
    exec i s = .next ((memNext false a held).retired s) := by
  obtain ⟨hcs, hbr⟩ := hrow
  rw [hexec, retired_branch h.npc ((h.mem_cs held).trans (by rw [hcs]; decide)), ← h.cc hbr, ← h.npc,
    ← agexAddress_branch (h.cs.trans hcs)]
  rfl

theorem Issued.exec_jump (h : Issued s a i) (hexec : exec i s = .next (s.setPc (s.reg (fieldSR1 a.ir))))
    (hrow : agexSlice (instrRow i) = 0b0000_000_1010_0000_10001#20 ∧ flagAt 0 (instrRow i) .sr1Needed = true) :
    exec i s = .next ((memNext false a held).retired s) := by
  obtain ⟨hcs, hn⟩ := hrow
  rw [hexec, retired_jump s ((h.mem_cs held).trans (by rw [hcs]; decide))]
  show _ = Host.Outcome.next (s.setPc (agexAddress a))
  rw [agexAddress_jump (h.cs.trans hcs), h.sr1 hn]
  rfl

theorem Issued.exec_call (h : Issued s a i) {t : Word} (hexec : exec i s = .next (s.callTo t))
    (hrow : memSlice (agexSlice (instrRow i)) = 0b0101_000_1010#11 ∧ flagAt 0 (instrRow i) .drMux = true)
    (ht : agexAddress a = t) : exec i s = .next ((memNext false a held).retired s) := by
  obtain ⟨hcs, hmux⟩ := hrow
  rw [hexec, retired_call h.npc ((h.mem_cs held).trans hcs) (h.drid_link hmux), ← ht]
  rfl

theorem Issued.exec_trapEntry (h : Issued s a i) (hexec : exec i s = .next (s.trapEnter (fieldTrapvect8 a.ir)))
    (hrow : agexSlice (instrRow i) = 0b0101_101_1100_0000_00000#20 ∧ flagAt 0 (instrRow i) .drMux = true) :
    exec i s = .next ((memNext false a held).retired s) := by
  obtain ⟨hcs, hmux⟩ := hrow
  rw [hexec, retired_trap h.npc ((h.mem_cs held).trans (by rw [hcs]; decide)) (h.drid_link hmux), State.trapEnter,
    ← agexAddress_trap (h.cs.trans hcs)]
  rfl

theorem Issued.exec_none (h : Issued s a i) (hexec : exec i s = .next s.advance)
    (hrow : memSlice (agexSlice (instrRow i)) = 0b0000_000_0000#11) :
    exec i s = .next ((memNext false a held).retired s) := by
  rw [hexec, retired_none h.npc ((h.mem_cs held).trans hrow)]

/-- Whatever instruction it is, retiring it is executing it. -/
theorem Issued.exec_eq_retired (h : Issued s a i) : exec i s = .next ((memNext false a held).retired s) := by
  have hd := h.decodes
  cases hd with
  | addReg hop h5 =>
    refine h.exec_operate held (exec_addReg ..) (by rw [instrRow]; decide) fun h1 => ?_
    rw [agexResult_addReg (h.cs.trans (by rw [instrRow]; decide)), h1, h.sr2_eq (by rw [instrRow]; decide), hop]
    rfl
  | andReg hop h5 =>
    refine h.exec_operate held (exec_andReg ..) (by rw [instrRow]; decide) fun h1 => ?_
    rw [agexResult_andReg (h.cs.trans (by rw [instrRow]; decide)), h1, h.sr2_eq (by rw [instrRow]; decide), hop]
    rfl
  | xorReg hop h5 =>
    refine h.exec_operate held (exec_xorReg ..) (by rw [instrRow]; decide) fun h1 => ?_
    rw [agexResult_xorReg (h.cs.trans (by rw [instrRow]; decide)), h1, h.sr2_eq (by rw [instrRow]; decide), hop]
    rfl
  | addImm hop h5 =>
    exact h.exec_operate held (exec_addImm ..) (by rw [instrRow]; decide) fun h1 => by
      rw [agexResult_addImm (h.cs.trans (by rw [instrRow]; decide)), h1]
  | andImm hop h5 =>
    exact h.exec_operate held (exec_andImm ..) (by rw [instrRow]; decide) fun h1 => by
      rw [agexResult_andImm (h.cs.trans (by rw [instrRow]; decide)), h1]
  | xorImm hop h5 =>
    exact h.exec_operate held (exec_xorImm ..) (by rw [instrRow]; decide) fun h1 => by
      rw [agexResult_xorImm (h.cs.trans (by rw [instrRow]; decide)), h1]
  | notReg hop h5 himm =>
    refine h.exec_operate held (exec_notReg ..) (by rw [instrRow]; decide) fun h1 => ?_
    rw [agexResult_xorImm (h.cs.trans (by rw [instrRow]; decide)), h1, himm]
    rfl
  | lshf hop h4 =>
    refine h.exec_operate held (exec_lshf ..) (by rw [instrRow]; decide) fun h1 => ?_
    rw [agexResult_shift (h.cs.trans (by rw [instrRow]; decide)), h1, h4]
    rfl
  | rshfl hop h4 h5 =>
    refine h.exec_operate held (exec_rshfl ..) (by rw [instrRow]; decide) fun h1 => ?_
    rw [agexResult_shift (h.cs.trans (by rw [instrRow]; decide)), h1, h4, h5]
    rfl
  | rshfa hop h4 h5 =>
    refine h.exec_operate held (exec_rshfa ..) (by rw [instrRow]; decide) fun h1 => ?_
    rw [agexResult_shift (h.cs.trans (by rw [instrRow]; decide)), h1, h4, h5]
    rfl
  | ldb hop =>
    have hcs : a.cs = 0b1110_001_0000_0000_10101#20 := h.cs.trans (by rw [instrRow]; decide)
    refine h.exec_load held (exec_ldb ..) (by rw [instrRow]; decide) fun h1 => ?_
    rw [retired_ldb h.npc ((congrArg memSlice hcs).trans (by decide)), ← h1, memReadByte_eq, ← agexAddress_ldb hcs]
    rfl
  | ldw hop =>
    have hcs : a.cs = 0b1110_101_0000_0000_11101#20 := h.cs.trans (by rw [instrRow]; decide)
    refine h.exec_load held (exec_ldw ..) (by rw [instrRow]; decide) fun h1 => ?_
    rw [retired_ldw h.npc ((congrArg memSlice hcs).trans (by decide)), ← h1, ← agexAddress_ldw hcs]
    rfl
  | stb hop =>
    have hcs : a.cs = 0b0000_011_0000_1110_10101#20 := h.cs.trans (by rw [instrRow]; decide)
    refine h.exec_store held (exec_stb ..) (by rw [instrRow]; decide) (by rw [hop]; decide) fun h1 h2 => ?_
    rw [retired_stb h.npc ((congrArg memSlice hcs).trans (by decide)), ← h1, ← h2, ← agexAddress_stb hcs,
      ← agexResult_stb hcs]
    rfl
  | stw hop =>
    have hcs : a.cs = 0b0000_111_0000_1110_11101#20 := h.cs.trans (by rw [instrRow]; decide)
    refine h.exec_store held (exec_stw ..) (by rw [instrRow]; decide) (by rw [hop]; decide) fun h1 h2 => ?_
    rw [retired_stw h.npc ((congrArg memSlice hcs).trans (by decide)), ← h1, ← h2, ← agexAddress_stw hcs,
      ← agexResult_stw hcs]
    rfl
  | lea hop =>
    have hcs : a.cs = 0b0100_000_0000_0000_11010#20 := h.cs.trans (by rw [instrRow]; decide)
    rw [exec_lea, retired_lea h.npc ((congrArg memSlice hcs).trans (by decide)), ← h.npc, ← agexAddress_lea hcs,
      ← h.drid_eq (by rw [instrRow]; decide)]
    rfl
  | br hop hw => exact h.exec_branch held (exec_br ..) (by rw [instrRow]; decide)
  | nop hw =>
    refine h.exec_branch held ?_ (by rw [instrRow]; decide)
    rw [exec_nop, hw]
    rfl
  | jmp hop hbase => exact h.exec_jump held (exec_jmp ..) (by rw [instrRow]; decide)
  | ret hop hbase => exact h.exec_jump held (by rw [exec_ret, hbase]; rfl) (by rw [instrRow]; decide)
  | jsr hop h11 =>
    refine h.exec_call held (exec_jsr ..) (by rw [instrRow]; decide) ?_
    rw [agexAddress_jsr (h.cs.trans (by rw [instrRow]; decide)), h.npc]
  | jsrr hop h11 =>
    refine h.exec_call held (exec_jsrr ..) (by rw [instrRow]; decide) ?_
    rw [agexAddress_jsrr (h.cs.trans (by rw [instrRow]; decide)), h.sr1 (by rw [instrRow]; decide)]
    rfl
  | trap hop hvec => exact h.exec_trapEntry held (exec_trap ..) (by rw [instrRow]; decide)
  | halt hop hvec => exact h.exec_trapEntry held (by rw [hvec]; exact exec_halt _) (by rw [instrRow]; decide)
  | rti hop => exact h.exec_none held (exec_rti ..) (by rw [instrRow]; decide)
  | reserved1010 hop => exact h.exec_none held (exec_reserved1010 ..) (by rw [instrRow]; decide)
  | reserved1011 hop => exact h.exec_none held (exec_reserved1011 ..) (by rw [instrRow]; decide)

end

end Sys2Proof.Machine
end

section
/-! The cycle in which an instruction of the reference image is in MEM, and O59. -/

namespace Sys2Proof.Machine

open Bits

/-! What every row of the reference image keeps to (41_control_store.md R129). -/

/-- A row that takes `pc` or a register from the data port accesses it. -/
theorem instrRow_reads (i : Instr) :
    let cs := memSlice (agexSlice (instrRow i))
    (flagAt memFirst cs .trapOp = true → flagAt memFirst cs .dcacheEn = true) ∧
      (flagAt memFirst cs .dcacheEn = true ∨ cs.getLsbD 7 = true ∨ cs.getLsbD 8 = false) := by
  cases i <;> (rw [instrRow]; decide)

/-- A row that can redirect `pc` stalls fetching (W2). -/
theorem instrRow_redirects (i : Instr) :
    let cs := memSlice (agexSlice (instrRow i))
    flagAt memFirst cs .trapOp = true ∨ flagAt memFirst cs .uncondOp = true ∨ flagAt memFirst cs .brOp = true →
      flagAt memFirst cs .brStall = true := by
  cases i <;> (rw [instrRow]; decide)

/-- The MEM latch holds an instruction with the row of `i`. -/
def MemLatch.Holds (l : MemLatch) (i : Instr) : Prop := l.v = true ∧ l.cs = memSlice (agexSlice (instrRow i))

section
variable {l : MemLatch} {i : Instr}

theorem MemLatch.Holds.reads (h : l.Holds i) : (l.flag .trapOp = true → l.flag .dcacheEn = true) ∧
    (l.flag .dcacheEn = true ∨ l.cs.getLsbD 7 = true ∨ l.cs.getLsbD 8 = false) := by
  rw [MemLatch.flag, MemLatch.flag, h.2]
  exact instrRow_reads i

/-- An instruction that redirects `pc` is a transfer. -/
theorem MemLatch.Holds.brStall_of_mux (h : l.Holds i) (hmux : memPcMux l ≠ 0#2) : l.flag .brStall = true := by
  have hred := instrRow_redirects i
  rw [← h.2] at hred
  refine hred ?_
  by_contra hnone
  obtain ⟨ht, hu, hb⟩ : l.flag .trapOp = false ∧ l.flag .uncondOp = false ∧ l.flag .brOp = false := by
    simpa [not_or] using hnone
  exact hmux (by simp [memPcMux, ht, hu, hb])

theorem MemLatch.Holds.brStall_eq (h : l.Holds i) : l.flag .brStall = isTransfer i := by
  rw [MemLatch.flag, h.2, flagAt_memSlice_word _ _ _ (by decide), instrRow_brStall]

/-- An instruction that does not redirect `pc` goes on to its NPC. -/
theorem MemLatch.nextPc_of_mux (m : Memory) (hv : l.v = true) (hmux : memPcMux l = 0#2) : l.nextPc m = l.npc := by
  rw [memPcMux, hv, if_neg (by decide)] at hmux
  rw [MemLatch.nextPc]
  split at hmux
  · cases hmux
  next ht =>
    split at hmux
    · cases hmux
    next hb => rw [if_neg ht, if_neg hb]

end

/-! The edge of that cycle. -/

section
variable (P : Params) {s : State} {i : Instr} (h : s.mem.Holds i) (hm : (cycleMem P s).signals.memStall = false)
include h hm

theorem dcacheReady_of_go (hen : s.mem.flag .dcacheEn = true) : P.dcacheReady s.cycleCount = true := by
  by_contra hnot
  refine Bool.eq_false_iff.mp hm ((memStall_iff ..).mpr ⟨Bool.and_eq_true_iff.mpr ⟨h.1, hen⟩, ?_⟩)
  exact Bool.eq_false_iff.mpr hnot

theorem cycle_memory_of_holds : (cycle P s).memory = s.mem.stored s.memory :=
  memStage_memory_eq_stored P s.cycleCount s.memory s.draws h.1 (dcacheReady_of_go P h hm)

theorem srRegData_of_holds : srRegData (cycle P s).sr = s.mem.result s.memory :=
  srRegData_eq_result P s.cycleCount s.memory s.draws h.1 (dcacheReady_of_go P h hm) h.reads.2

/-- The registers after the next edge. -/
theorem writeBackRegs_of_holds (regs : Vector Word 8) : writeBackRegs (cycleSr (cycle P s)) regs =
    if s.mem.flag .ldReg then writeReg regs s.mem.drid (s.mem.result s.memory) else regs := by
  have hld : (cycleSr (cycle P s)).vSrLdReg = s.mem.flag .ldReg := by
    show ((cycle P s).sr.v && flagAt srFirst (cycle P s).sr.cs .ldReg) = _
    rw [cycle_sr_v_of_go P hm, h.1, Bool.true_and]
    exact flagAt_srSlice s.mem.cs .ldReg _ _
  rw [writeBackRegs, hld, ← srRegData_of_holds P h hm]
  rfl

/-- The flags after the next edge. -/
theorem writeBackCC_of_holds (cc : CC) : writeBackCC (cycleSr (cycle P s)) cc =
    if s.mem.flag .ldCc then ccOf (s.mem.result s.memory) else cc := by
  have hld : (cycleSr (cycle P s)).vSrLdCc = s.mem.flag .ldCc := by
    rw [cycleSr, cycle_vSrLdCc_of_go P hm, h.1, Bool.true_and]
  rw [writeBackCC, hld, ← srRegData_of_holds P h hm]
  rfl

/-- `pc` when the cycle loads it. -/
theorem cycle_pc_of_holds (hld : cycleLdPc P s = true) (hmux : memPcMux s.mem ≠ 0#2) :
    (cycle P s).pc = s.mem.nextPc s.memory := by
  rw [cycle_pc_of_ldPc P hld,
    ← newPc_eq_nextPc P s.cycleCount s.memory s.draws h.1 (dcacheReady_of_go P h hm) h.reads.1]
  rcases memPcMux_one_or_two hmux with h1 | h2
  · rw [h1]; rfl
  · rw [h2]; rfl

end

/-- What DE hands to AGEX is the decoded instruction, issued in any state that agrees on what it needs. -/
theorem issued_of_decode {P : Params} (hP : P.ucode = ucodeRef) (d : Bool) (l : DeLatch) (c x : State) (held : AgexLatch)
    (hnpc : l.npc = x.pc + 2#16)
    (hsr1 : flagAt 0 (deControlWord P l) .sr1Needed = true → c.reg (sr1Id l.ir) = x.reg (sr1Id l.ir))
    (hsr2 : flagAt 0 (deControlWord P l) .sr2Needed = true → c.reg (sr2Id l.ir) = x.reg (sr2Id l.ir))
    (hcc : flagAt 0 (deControlWord P l) .brOp = true → c.cc = x.cc) :
    Issued x (agexNext P false d l c.regs c.cc held) (decodeWord l.ir) := by
  have hrow : deControlWord P l = instrRow (decodeWord l.ir) := by
    rw [deControlWord_eq, hP, ucodeRef_of_decodes (decodes l.ir)]
  rw [hrow] at hsr1 hsr2 hcc
  exact ⟨decodes l.ir, hnpc, congrArg agexSlice hrow, congrArg (dridOf · l.ir) hrow, hsr1, hsr2, hcc⟩

/-- The MEM latch behind an issued instruction holds it. -/
theorem Issued.holds {x : State} {a : AgexLatch} {i : Instr} (h : Issued x a i) (held : MemLatch) (hv : a.v = true) :
    (memNext false a held).Holds i :=
  ⟨hv, h.mem_cs held⟩

/-! One instruction through an empty pipeline. -/

/-- Nothing has been written since the state `s`, and nothing is about to be written back. -/
def Unwritten (s c : State) : Prop := c.regs = s.regs ∧ c.cc = s.cc ∧ c.memory = s.memory ∧ c.sr.v = false

theorem Unwritten.cycle {s c : State} (P : Params) (h : Unwritten s c) (hmem : c.mem.v = false) :
    Unwritten s (cycle P c) := by
  obtain ⟨hregs, hcc, hmemory, hsr⟩ := h
  exact ⟨(cycle_regs_of_bubble P hsr).trans hregs, (cycle_cc_of_bubble P hsr).trans hcc,
    (cycle_memory_of_bubble P hmem).trans hmemory, by rw [cycle_sr_v_of_go P (memStall_of_bubble P hmem), hmem]⟩

section
variable {P : Params} {s : State}

/-- After the fetch the instruction is in DE, alone. -/
theorem cycle_of_drained (h : Drained s) (hready : P.icacheReady s.cycleCount = true) :
    (cycle P s).de = ⟨true, fetchWord s, s.pc + 2#16⟩ ∧ (cycle P s).pc = s.pc + 2#16 ∧ (cycle P s).agex.v = false ∧
      (cycle P s).mem.v = false ∧ Unwritten s (cycle P s) := by
  have hld := cycleLdPc_of_drained P h
  rw [hready] at hld
  obtain ⟨hde, hagex, hmem, hsr⟩ := h
  have hm := memStall_of_bubble P hmem
  refine ⟨?_, ?_, ?_, ?_, Unwritten.cycle P ⟨rfl, rfl, rfl, hsr⟩ hmem⟩
  · rw [cycle_de_of_go P hm (depStall_of_bubble P hde), hld, vMemBrStall_of_bubble P hmem, cycleFetch_eq,
      cycle_memory_of_bubble P hmem, icacheAccess_of_ready hready]
    rfl
  · rw [cycle_pc_of_ldPc P hld, memPcMux_of_bubble hmem]; rfl
  · rw [cycle_agex_v_of_go P hm, hde]; rfl
  · rw [cycle_mem_of_go P hm]; exact hagex

/-- Then it is in AGEX, issued with the operands of the state it was fetched in. -/
theorem cycle_of_fetched {c : State} (hP : P.ucode = ucodeRef) (hde : c.de = ⟨true, fetchWord s, s.pc + 2#16⟩)
    (hagex : c.agex.v = false) (hmem : c.mem.v = false) (h : Unwritten s c) :
    (cycle P c).agex.v = true ∧ Issued s (cycle P c).agex (fetchInstr s) ∧ (cycle P c).mem.v = false ∧
      (isTransfer (fetchInstr s) = true → (cycle P c).pc = c.pc) ∧ Unwritten s (cycle P c) := by
  have hm := memStall_of_bubble P hmem
  have hd := depStall_of_empty P hagex hmem h.2.2.2
  have hissued : Issued s (cycle P c).agex (decodeWord c.de.ir) := by
    rw [cycle_agex_of_go P hm]
    refine issued_of_decode hP _ c.de c s c.agex (by rw [hde]) (fun _ => ?_) (fun _ => ?_) fun _ => h.2.1
    · rw [State.reg, State.reg, h.1]
    · rw [State.reg, State.reg, h.1]
  refine ⟨by rw [cycle_agex_v_of_go P hm, hde, hd]; rfl, by rw [hde] at hissued; exact hissued,
    by rw [cycle_mem_of_go P hm]; exact hagex, fun ht => ?_, h.cycle P hmem⟩
  refine cycle_pc_of_not_ldPc P (cycleLdPc_of_deBrStall P ((vDeBrStall_iff P c).mpr ⟨by rw [hde], ?_⟩))
  rw [deControlWord_eq, hP, ucodeRef_of_decodes (decodes c.de.ir), instrRow_brStall, hde]
  exact ht

/-- Then it is in MEM. -/
theorem cycle_of_issued {c : State} {i : Instr} (hv : c.agex.v = true) (hi : Issued s c.agex i) (hmem : c.mem.v = false)
    (h : Unwritten s c) :
    (cycle P c).mem = memNext false c.agex c.mem ∧ (isTransfer i = true → (cycle P c).pc = c.pc) ∧
      Unwritten s (cycle P c) := by
  refine ⟨cycle_mem_of_go P (memStall_of_bubble P hmem), fun ht => ?_, h.cycle P hmem⟩
  refine cycle_pc_of_not_ldPc P (cycleLdPc_of_agexBrStall P ((vAgexBrStall_iff c).mpr ⟨hv, ?_⟩))
  rw [AgexLatch.flag, hi.cs, flagAt_agexSlice _ _ _ (by decide), instrRow_brStall, ht]

/-- When the access is answered, memory is the retired one, and one edge later so are the registers and the flags. -/
theorem cycle_of_mem {c : State} {i : Instr} (hi : c.mem.Holds i) (h : Unwritten s c)
    (hready : P.dcacheReady c.cycleCount = true) :
    (cycle P c).memory = (c.mem.retired s).memory ∧ (cycle P c).regs = s.regs ∧
      (cycle P (cycle P c)).regs = (c.mem.retired s).regs ∧ (cycle P (cycle P c)).cc = (c.mem.retired s).cc := by
  obtain ⟨hregs, hcc, hmemory, hsr⟩ := h
  have hm := memStall_of_ready P hready
  have hregs' := (cycle_regs_of_bubble P hsr).trans hregs
  refine ⟨?_, hregs', ?_, ?_⟩
  · rw [cycle_memory_of_holds P hi hm, hmemory]; rfl
  · rw [cycle_regs, writeBackRegs_of_holds P hi hm, hregs', hmemory]; rfl
  · rw [cycle_cc, writeBackCC_of_holds P hi hm, cycle_cc_of_bubble P hsr, hcc, hmemory]; rfl

/-- A transfer alone in the pipeline that is resolved with the instruction port ready has set `pc`. -/
theorem cycle_pc_of_transfer {c : State} {i : Instr} (hi : c.mem.Holds i) (ht : isTransfer i = true)
    (hyounger : NoYoungerBehindTransfer c) (hpc : c.pc = c.mem.npc) (hm : (cycleMem P c).signals.memStall = false)
    (hready : P.icacheReady c.cycleCount = true) : (cycle P c).pc = c.mem.nextPc c.memory := by
  have hbr := (vMemBrStall_iff P c).mpr ⟨hi.1, hi.brStall_eq.trans ht⟩
  by_cases hmux : memPcMux c.mem = 0#2
  · rw [cycle_pc_of_not_ldPc P (cycleLdPc_of_notTaken P hbr hmux), MemLatch.nextPc_of_mux _ hi.1 hmux, hpc]
  · exact cycle_pc_of_holds P hi hm (cycleLdPc_of_taken P hyounger hbr hmux hm hready) hmux

end

theorem drained_noYounger {s : State} (h : Drained s) : NoYoungerBehindTransfer s :=
  ⟨fun hv => absurd (h.2.1.symm.trans hv) Bool.false_ne_true, fun hv => absurd (h.2.2.1.symm.trans hv) Bool.false_ne_true⟩

/-- Settles O59: the instruction goes through DE, AGEX, MEM and SR, and retiring it is executing it. -/
theorem pipelineRetiresDecodedInstruction : Obligations.PipelineRetiresDecodedInstruction := by
  unfold Obligations.PipelineRetiresDecodedInstruction
  intro P s t hP hs hfetch hresolve hdata hexec
  obtain ⟨hde1, hpc1, hagex1, hmem1, hu1⟩ := cycle_of_drained hs hfetch
  obtain ⟨hagex2, hi2, hmem2, hpc2, hu2⟩ := cycle_of_fetched hP hde1 hagex1 hmem1 hu1
  obtain ⟨hmem3, hpc3, hu3⟩ := cycle_of_issued (P := P) hagex2 hi2 hmem2 hu2
  have hyounger := cycle_keeps_noYounger P (cycle_keeps_noYounger P (cycle_keeps_noYounger P (drained_noYounger hs)))
  have hholds := hi2.holds (cycle P (cycle P s)).mem hagex2
  obtain rfl : _ = t := Host.Outcome.next.inj ((hi2.exec_eq_retired (cycle P (cycle P s)).mem).symm.trans hexec)
  rw [← hmem3] at hholds ⊢
  obtain ⟨hmemory4, hregs4, hregs5, hcc5⟩ := cycle_of_mem (P := P) hholds hu3 hdata
  refine ⟨hmemory4, hregs4, hregs5, hcc5, fun ht => ?_⟩
  refine (cycle_pc_of_transfer hholds ht hyounger ?_ (memStall_of_ready P hdata) hresolve).trans ?_
  · rw [hpc3 ht, hpc2 ht, hpc1, hmem3]
    exact hi2.npc.symm
  · rw [hu3.2.2.1]; rfl

end Sys2Proof.Machine
end

section
/-! The pipeline refines the sequential machine (49_isa_memory_control.md R287): what has been written back or stands in SR
is the state of the sequential machine; what stands in MEM, AGEX and DE are its next instructions. O60. -/

namespace Sys2Proof.Machine

open Bits

/-! The words that no store in MEM reaches (premise Q3). -/

theorem highAddr_inj {w w' : WordAddr} (h : highAddr w = highAddr w') : w = w' :=
  BitVec.eq_of_toNat_eq (by unfold highAddr at h; omega)

theorem lowAddr_inj {w w' : WordAddr} (h : lowAddr w = lowAddr w') : w = w' :=
  BitVec.eq_of_toNat_eq (by unfold lowAddr at h; omega)

theorem word_writeMasked_of_ne (m : Memory) (w w' : WordAddr) (v : Word) (lo hi : Bool)
    (h : lo = true ∨ hi = true → w' ≠ w) : (m.writeMasked w v lo hi).word w' = m.word w' := by
  have hhigh : (m.writeMasked w v lo hi).getHigh w' = m.getHigh w' := by
    rw [Memory.getHigh, readAt_writeMasked, if_neg fun hw => h (.inr hw.1) (highAddr_inj hw.2),
      if_neg fun hw => lowAddr_ne_highAddr w w' hw.2.symm]
    rfl
  have hlow : (m.writeMasked w v lo hi).getLow w' = m.getLow w' := by
    rw [Memory.getLow, readAt_writeMasked, if_neg fun hw => lowAddr_ne_highAddr w' w hw.2,
      if_neg fun hw => h (.inl hw.1) (lowAddr_inj hw.2)]
    rfl
  rw [Memory.word, hhigh, hlow, Memory.word]

section
variable (P : Params) {c : State} (hstale : staleFetch P c = false)

theorem memReadWord_cycle {p : Word}
    (h : (memWeLo c.mem || memWeHi c.mem) = true → P.dcacheReady c.cycleCount = true →
      wordAddr p ≠ wordAddr c.mem.address) :
    memReadWord (cycle P c).memory p = memReadWord c.memory p := by
  rw [cycle_memory, cycleMem, memStage_memory]
  split
  next hen => exact word_writeMasked_of_ne _ _ _ _ _ _ fun hwe => h (Bool.or_eq_true_iff.mpr hwe) hen.2
  next => rfl

include hstale

/-- The word that the occupant of DE was fetched from stays as it is. -/
theorem memReadWord_cycle_of_de (hv : c.de.v = true) {p : Word} (hnpc : c.de.npc = p + 2#16) :
    memReadWord (cycle P c).memory p = memReadWord c.memory p := by
  refine memReadWord_cycle P fun hwe hready heq => Bool.eq_false_iff.mp hstale ?_
  have hp : c.de.npc - 2#16 = p := by rw [hnpc, BitVec.add_sub_cancel]
  simp [staleFetch, hwe, hready, hv, hp, heq]

/-- The word that the occupant of AGEX was fetched from stays as it is. -/
theorem memReadWord_cycle_of_agex (hv : c.agex.v = true) {p : Word} (hnpc : c.agex.npc = p + 2#16) :
    memReadWord (cycle P c).memory p = memReadWord c.memory p := by
  refine memReadWord_cycle P fun hwe hready heq => Bool.eq_false_iff.mp hstale ?_
  have hp : c.agex.npc - 2#16 = p := by rw [hnpc, BitVec.add_sub_cancel]
  simp [staleFetch, hwe, hready, hv, hp, heq]

end

/-! The simulation relation. -/

/-- The sequential machine behind the occupant of MEM. -/
def behindMem (c t : State) : State := if c.mem.v then c.mem.retired t else t

/-- The address behind the occupant of AGEX, as long as it does not redirect `pc`. -/
def behindAgex (c t : State) : Word := if c.agex.v then (behindMem c t).pc + 2#16 else (behindMem c t).pc

/-- The pipeline in state `c` has retired, or has in SR, all that the sequential machine in state `t` has executed, and
the occupants of MEM, AGEX and DE are what that machine executes next, unless a transfer in MEM redirects `pc`. -/
structure Refines (c t : State) : Prop where
  regs : writeBackRegs (cycleSr c) c.regs = t.regs
  cc : writeBackCC (cycleSr c) c.cc = t.cc
  memory : c.memory = t.memory
  younger : NoYoungerBehindTransfer c
  mem : c.mem.v = true → t.pc ≠ 0x0000#16 ∧
    ∃ (a : AgexLatch) (held : MemLatch), Issued t a (fetchInstr t) ∧ c.mem = memNext false a held
  agex : c.agex.v = true → (behindMem c t).pc ≠ 0x0000#16 ∧ Issued (behindMem c t) c.agex (decodeWord c.agex.ir) ∧
    c.agex.ir = memReadWord c.memory (behindMem c t).pc
  de : c.de.v = true → behindAgex c t ≠ 0x0000#16 ∧ c.de.npc = behindAgex c t + 2#16 ∧
    c.de.ir = memReadWord c.memory (behindAgex c t)
  pc : memPcMux c.mem = 0#2 → c.pc = if c.de.v then behindAgex c t + 2#16 else behindAgex c t

theorem behindMem_of_bubble {c : State} (t : State) (h : c.mem.v = false) : behindMem c t = t := by
  rw [behindMem, h]; rfl

theorem behindMem_of_valid {c : State} (t : State) (h : c.mem.v = true) : behindMem c t = c.mem.retired t := by
  rw [behindMem, h]; rfl

theorem behindAgex_of_bubble {c : State} (t : State) (h : c.agex.v = false) : behindAgex c t = (behindMem c t).pc := by
  rw [behindAgex, h]; rfl

theorem behindAgex_of_valid {c : State} (t : State) (h : c.agex.v = true) :
    behindAgex c t = (behindMem c t).pc + 2#16 := by
  rw [behindAgex, h]; rfl

/-- An empty pipeline is the sequential machine itself. -/
theorem refines_of_drained {s : State} (h : Drained s) : Refines s s := by
  have hyounger := drained_noYounger h
  obtain ⟨hde, hagex, hmem, hsr⟩ := h
  refine ⟨writeBackRegs_of_not _ _ (srStage_of_bubble _ hsr).1, writeBackCC_of_not _ _ (srStage_of_bubble _ hsr).2, rfl,
    hyounger, ?_, ?_, ?_, fun _ => ?_⟩
  · rw [hmem]; exact fun h => nomatch h
  · rw [hagex]; exact fun h => nomatch h
  · rw [hde]; exact fun h => nomatch h
  · rw [hde, behindAgex_of_bubble s hagex, behindMem_of_bubble s hmem]; rfl

/-! A cycle in which MEM waits for its port: the sequential machine stands still. -/

theorem cycle_memory_of_memStall (P : Params) {c : State} (hm : (cycleMem P c).signals.memStall = true) :
    (cycle P c).memory = c.memory := by
  obtain ⟨-, hready⟩ := (memStall_iff ..).mp hm
  rw [cycle_memory, cycleMem, memStage_memory, hready, if_neg (by simp)]

theorem Refines.cycle_of_stall {P : Params} {c t : State} (h : Refines c t)
    (hm : (cycleMem P c).signals.memStall = true) : Refines (cycle P c) t := by
  have hmem := cycle_mem_of_memStall P hm
  have hagex := cycle_agex_of_memStall P hm
  have hde := cycle_de_of_memStall P hm
  have hpc := cycle_pc_of_not_ldPc P (cycleLdPc_of_memStall P hm)
  have hmemory := cycle_memory_of_memStall P hm
  have hsr := srStage_of_bubble _ (cycle_sr_v_of_memStall P hm)
  have hu : behindMem (cycle P c) t = behindMem c t := by rw [behindMem, behindMem, hmem]
  have hw : behindAgex (cycle P c) t = behindAgex c t := by rw [behindAgex, behindAgex, hu, hagex]
  refine ⟨?_, ?_, hmemory.trans h.memory, cycle_keeps_noYounger P h.younger, ?_, ?_, ?_, ?_⟩
  · exact (writeBackRegs_of_not _ _ hsr.1).trans h.regs
  · exact (writeBackCC_of_not _ _ hsr.2).trans h.cc
  · rw [hmem]; exact h.mem
  · rw [hagex, hu, hmemory]; exact h.agex
  · rw [hde, hw, hmemory]; exact h.de
  · rw [hmem, hpc, hde, hw]; exact h.pc

/-! What the instruction in MEM leaves as it is. -/

theorem behindMem_reg {c : State} (t : State) {r : RegId}
    (h : ¬(c.mem.v = true ∧ c.mem.flag .ldReg = true ∧ c.mem.drid = r)) : (behindMem c t).reg r = t.reg r := by
  rw [behindMem]
  split
  next hv =>
    show (if c.mem.flag .ldReg then writeReg t.regs c.mem.drid _ else t.regs)[r.toNat]'(r.isLt) = _
    split
    next hld => rw [getElem_writeReg, if_neg fun hr => h ⟨hv, hld, hr.symm⟩]; rfl
    next => rfl
  next => rfl

theorem behindMem_cc {c : State} (t : State) (h : ¬(c.mem.v = true ∧ c.mem.flag .ldCc = true)) :
    (behindMem c t).cc = t.cc := by
  rw [behindMem]
  split
  next hv => exact if_neg fun hld => h ⟨hv, hld⟩
  next => rfl

/-! A cycle in which MEM goes on: the sequential machine executes the instruction that leaves MEM, if there is one. -/

section
variable {P : Params} {c t : State} (h : Refines c t)
include h

theorem Refines.holds (hv : c.mem.v = true) : c.mem.Holds (fetchInstr t) := by
  obtain ⟨-, a, held, hi, hmem⟩ := h.mem hv
  rw [hmem] at hv ⊢
  exact hi.holds held hv

theorem Refines.sequentialStep_eq (hv : c.mem.v = true) : sequentialStep t = .next (behindMem c t) := by
  obtain ⟨hpc, a, held, hi, hmem⟩ := h.mem hv
  rw [sequentialStep_of_ne t hpc, behindMem_of_valid t hv, hmem]
  exact hi.exec_eq_retired held

theorem Refines.vMemBrStall_of_mux (hmux : memPcMux c.mem ≠ 0#2) : (cycleMem P c).signals.vMemBrStall = true := by
  cases hv : c.mem.v with
  | true => exact (vMemBrStall_iff P c).mpr ⟨hv, (h.holds hv).brStall_of_mux hmux⟩
  | false => exact absurd (memPcMux_of_bubble hv) hmux

/-- The registers as the pipeline has them after the edge. -/
theorem Refines.cycle_regs : (Machine.cycle P c).regs = t.regs := h.regs

theorem Refines.cycle_cc : (Machine.cycle P c).cc = t.cc := h.cc

section
variable (hm : (cycleMem P c).signals.memStall = false)
include hm

theorem Refines.memory_of_go : (cycle P c).memory = (behindMem c t).memory := by
  cases hv : c.mem.v with
  | true => rw [cycle_memory_of_holds P (h.holds hv) hm, behindMem_of_valid t hv, h.memory]; rfl
  | false => rw [cycle_memory_of_bubble P hv, behindMem_of_bubble t hv, h.memory]

theorem Refines.regs_of_go :
    writeBackRegs (cycleSr (cycle P c)) (cycle P c).regs = (behindMem c t).regs := by
  cases hv : c.mem.v with
  | true => rw [writeBackRegs_of_holds P (h.holds hv) hm, behindMem_of_valid t hv, h.cycle_regs, h.memory]; rfl
  | false =>
    have hsr := srStage_of_bubble _ ((cycle_sr_v_of_go P hm).trans hv)
    rw [behindMem_of_bubble t hv, ← h.cycle_regs]
    exact writeBackRegs_of_not _ _ hsr.1

theorem Refines.cc_of_go : writeBackCC (cycleSr (cycle P c)) (cycle P c).cc = (behindMem c t).cc := by
  cases hv : c.mem.v with
  | true => rw [writeBackCC_of_holds P (h.holds hv) hm, behindMem_of_valid t hv, h.cycle_cc, h.memory]; rfl
  | false =>
    have hsr := srStage_of_bubble _ ((cycle_sr_v_of_go P hm).trans hv)
    rw [behindMem_of_bubble t hv, ← h.cycle_cc]
    exact writeBackCC_of_not _ _ hsr.2

/-- The occupant of AGEX goes into MEM as the instruction the sequential machine executes next. -/
theorem Refines.mem_of_go (hstale : staleFetch P c = false) (hv : c.agex.v = true) :
    (behindMem c t).pc ≠ 0x0000#16 ∧ ∃ (a : AgexLatch) (held : MemLatch),
      Issued (behindMem c t) a (fetchInstr (behindMem c t)) ∧ (cycle P c).mem = memNext false a held := by
  obtain ⟨hpc, hi, hir⟩ := h.agex hv
  refine ⟨hpc, c.agex, c.mem, ?_, cycle_mem_of_go P hm⟩
  rw [fetchInstr, fetchWord, ← h.memory_of_go hm, memReadWord_cycle_of_agex P hstale hv hi.npc, ← hir]
  exact hi

/-- The address behind the instruction that goes into MEM. -/
theorem Refines.pc_behindMem (hmux : memPcMux (cycle P c).mem = 0#2) :
    (behindMem (cycle P c) (behindMem c t)).pc = behindAgex c t := by
  have hmem := cycle_mem_of_go P hm
  have hvalid : (cycle P c).mem.v = c.agex.v := by rw [hmem]; rfl
  cases hv : c.agex.v with
  | true =>
    rw [behindMem_of_valid _ (hvalid.trans hv), behindAgex_of_valid t hv, ← (h.agex hv).2.1.npc]
    show (cycle P c).mem.nextPc _ = _
    rw [MemLatch.nextPc_of_mux _ (hvalid.trans hv) hmux, hmem]
    rfl
  | false => rw [behindMem_of_bubble _ (hvalid.trans hv), behindAgex_of_bubble t hv]

/-- Only a transfer redirects `pc`. -/
theorem Refines.mux_of_go (hbr : (cycleAgex c).vAgexBrStall = false) : memPcMux (cycle P c).mem = 0#2 := by
  by_contra hmux
  rw [cycle_mem_of_go P hm] at hmux
  cases hv : c.agex.v with
  | true =>
    have hflag := ((h.agex hv).2.1.holds c.mem hv).brStall_of_mux hmux
    rw [memNext_flag _ _ _ _ (by decide)] at hflag
    exact Bool.eq_false_iff.mp hbr ((vAgexBrStall_iff c).mpr ⟨hv, hflag⟩)
  | false => exact hmux (memPcMux_of_bubble hv)

theorem Refines.mux_of_de (hv : c.de.v = true) : memPcMux (cycle P c).mem = 0#2 := by
  refine h.mux_of_go hm (Bool.eq_false_iff.mpr fun hbr => ?_)
  obtain ⟨hagex, hflag⟩ := (vAgexBrStall_iff c).mp hbr
  exact Bool.false_ne_true ((h.younger.1 hagex hflag).symm.trans hv)

/-- A register that nothing in flight writes is the one the sequential machine has behind all of it. -/
theorem Refines.reg_of_not_pending (r : RegId)
    (hnot : ¬pending (cycleAgex c) (cycleMem P c).signals (cycleSr c) r = true) :
    c.reg r = (behindMem (cycle P c) (behindMem c t)).reg r := by
  have hsettled := (settled_of_not_pending P hm r hnot).1
  rw [cycle_pending_iff, not_or, not_or] at hnot
  obtain ⟨hagex, hmem, -⟩ := hnot
  rw [behindMem_reg, behindMem_reg t hmem, hsettled, State.reg, h.cycle_regs, State.reg]
  rw [cycle_mem_of_go P hm]
  exact fun ⟨hv, hld, hr⟩ => hagex ⟨hv, (memNext_flag c.agex c.mem .ldReg (by decide) (by decide)).symm.trans hld, hr⟩

theorem Refines.cc_of_branch (hv : c.de.v = true) (hd : (cycleDe P c).depStall = false)
    (hbr : flagAt 0 (deControlWord P c.de) .brOp = true) : c.cc = (behindMem (cycle P c) (behindMem c t)).cc := by
  obtain ⟨hagex, hmem, hsr⟩ := no_flag_write_of_branch P hv hd hbr
  rw [behindMem_cc, behindMem_cc t hmem, ← h.cc, writeBackCC_of_not _ _ hsr]
  rw [cycle_mem_of_go P hm]
  exact fun ⟨hv, hld⟩ => hagex ⟨hv, (memNext_flag c.agex c.mem .ldCc (by decide) (by decide)).symm.trans hld⟩

/-- The occupant of DE goes into AGEX with the operands the sequential machine will have. -/
theorem Refines.agex_of_go (hP : P.ucode = ucodeRef) (hstale : staleFetch P c = false)
    (hv : (cycle P c).agex.v = true) :
    let u := behindMem (cycle P c) (behindMem c t)
    u.pc ≠ 0x0000#16 ∧ Issued u (cycle P c).agex (decodeWord (cycle P c).agex.ir) ∧
      (cycle P c).agex.ir = memReadWord (cycle P c).memory u.pc := by
  rw [cycle_agex_v_of_go P hm, Bool.and_eq_true_iff, Bool.not_eq_true'] at hv
  obtain ⟨hde, hd⟩ := hv
  obtain ⟨hpc, hnpc, hir⟩ := h.de hde
  have hu := h.pc_behindMem hm (h.mux_of_de hm hde)
  have hnot : ¬_ := fun hw => Bool.eq_false_iff.mp hd ((depStallOf_iff _ _ _ _ _ _ _).mpr ⟨hde, hw⟩)
  dsimp only
  rw [hu, memReadWord_cycle_of_de P hstale hde hnpc, ← hir, cycle_agex_of_go P hm]
  refine ⟨hpc, issued_of_decode hP _ c.de c _ c.agex (by rw [hu]; exact hnpc) (fun h1 => ?_) (fun h2 => ?_) fun hbr => ?_,
    rfl⟩
  · exact h.reg_of_not_pending hm _ fun hp => hnot (.inl ⟨h1, hp⟩)
  · exact h.reg_of_not_pending hm _ fun hp => hnot (.inr (.inl ⟨h2, hp⟩))
  · exact h.cc_of_branch hm hde hd hbr

/-- The address behind the instruction that goes into AGEX, when one does. -/
theorem Refines.behindAgex_of_go (hd : (cycleDe P c).depStall = false) (hmux : memPcMux (cycle P c).mem = 0#2) :
    behindAgex (cycle P c) (behindMem c t) = if c.de.v then behindAgex c t + 2#16 else behindAgex c t := by
  have hvalid : (cycle P c).agex.v = c.de.v := by
    rw [cycle_agex_v_of_go P hm, hd, Bool.not_false, Bool.and_true]
  rw [behindAgex, h.pc_behindMem hm hmux, hvalid]

/-- With a dependency stall the occupant of DE stays, and a bubble goes before it. -/
theorem Refines.behindAgex_of_depStall (hd : (cycleDe P c).depStall = true) :
    behindAgex (cycle P c) (behindMem c t) = behindAgex c t := by
  rw [behindAgex_of_bubble _ (cycle_agex_v_of_depStall P hm hd), h.pc_behindMem hm (h.mux_of_de hm (de_v_of_depStall P hd))]

/-- What goes into DE was fetched behind the rest. -/
theorem Refines.de_of_go (hpc0 : c.pc ≠ 0x0000#16) (hstale : staleFetch P c = false) (hv : (cycle P c).de.v = true) :
    let w := behindAgex (cycle P c) (behindMem c t)
    w ≠ 0x0000#16 ∧ (cycle P c).de.npc = w + 2#16 ∧ (cycle P c).de.ir = memReadWord (cycle P c).memory w := by
  dsimp only
  cases hd : (cycleDe P c).depStall with
  | true =>
    obtain ⟨hpc, hnpc, hir⟩ := h.de (de_v_of_depStall P hd)
    rw [h.behindAgex_of_depStall hm hd, cycle_de_of_depStall P hd,
      memReadWord_cycle_of_de P hstale (de_v_of_depStall P hd) hnpc]
    exact ⟨hpc, hnpc, hir⟩
  | false =>
    rw [cycle_de_of_go P hm hd] at hv ⊢
    obtain ⟨hld, hbr⟩ := Bool.and_eq_true_iff.mp hv
    rw [Bool.not_eq_true'] at hbr
    obtain ⟨hready, -, -, hagexBr, -⟩ := (cycleLdPc_iff P c).mp hld
    have hmux : memPcMux c.mem = 0#2 := by
      by_contra hmux
      exact Bool.false_ne_true (hbr.symm.trans (h.vMemBrStall_of_mux hmux))
    rw [h.behindAgex_of_go hm hd (h.mux_of_go hm hagexBr), ← h.pc hmux, cycleFetch_eq, icacheAccess_of_ready hready]
    exact ⟨hpc0, rfl, rfl⟩

/-- `pc` stands behind all that is in flight, unless a transfer that goes into MEM will redirect it. -/
theorem Refines.pc_of_go (hlost : redirectLost P c = false) (hmux' : memPcMux (cycle P c).mem = 0#2) :
    (cycle P c).pc = if (cycle P c).de.v then behindAgex (cycle P c) (behindMem c t) + 2#16
      else behindAgex (cycle P c) (behindMem c t) := by
  by_cases hmux : memPcMux c.mem = 0#2
  · cases hd : (cycleDe P c).depStall with
    | true =>
      rw [cycle_pc_of_not_ldPc P (cycleLdPc_of_depStall P hd), cycle_de_of_depStall P hd, h.behindAgex_of_depStall hm hd]
      exact h.pc hmux
    | false =>
      rw [h.behindAgex_of_go hm hd hmux', ← h.pc hmux, cycle_de_of_go P hm hd]
      cases hld : cycleLdPc P c with
      | true =>
        obtain ⟨-, -, -, -, -, hbr⟩ := (cycleLdPc_iff P c).mp hld
        rw [hbr.resolve_right fun hne => hne hmux, cycle_pc_of_ldPc P hld, hmux]
        rfl
      | false => rw [cycle_pc_of_not_ldPc P hld]; rfl
  · have hbr := h.vMemBrStall_of_mux (P := P) hmux
    obtain ⟨hv, hflag⟩ := (vMemBrStall_iff P c).mp hbr
    obtain ⟨hagex, hde⟩ := h.younger.2 hv hflag
    have hd := depStall_of_bubble P hde
    have hready : P.icacheReady c.cycleCount = true := by
      by_contra hnot
      exact Bool.eq_false_iff.mp hlost ((redirectLost_iff P c).mpr ⟨hbr, hmux, hm, Bool.eq_false_iff.mpr hnot⟩)
    rw [h.behindAgex_of_go hm hd hmux', hde, behindAgex_of_bubble t hagex, behindMem_of_valid t hv,
      cycle_de_of_go P hm hd, hbr,
      cycle_pc_of_holds P (h.holds hv) hm (cycleLdPc_of_taken P h.younger hbr hmux hm hready) hmux, h.memory]
    rw [Bool.not_true, Bool.and_false]
    rfl

theorem Refines.cycle_of_go (hP : P.ucode = ucodeRef) (hpc0 : c.pc ≠ 0x0000#16) (hlost : redirectLost P c = false)
    (hstale : staleFetch P c = false) : Refines (cycle P c) (behindMem c t) where
  regs := h.regs_of_go hm
  cc := h.cc_of_go hm
  memory := h.memory_of_go hm
  younger := cycle_keeps_noYounger P h.younger
  mem hv := h.mem_of_go hm hstale (by rw [cycle_mem_of_go P hm] at hv; exact hv)
  agex := h.agex_of_go hm hP hstale
  de := h.de_of_go hm hpc0 hstale
  pc := h.pc_of_go hm hlost

end

end

/-! Runs. -/

theorem sequentialRun_succ_last (m : Nat) {s t u : State} (h : sequentialRun m s = .next t)
    (hstep : sequentialStep t = .next u) : sequentialRun (m + 1) s = .next u := by
  induction m generalizing s with
  | zero =>
    obtain rfl : s = t := Host.Outcome.next.inj h
    rw [sequentialRun, hstep]
    rfl
  | succ m ih =>
    rw [sequentialRun] at h ⊢
    cases hs : sequentialStep s with
    | next s' =>
      rw [hs] at h
      exact ih h
    | fault f => rw [hs] at h; cases h
    | refused f => rw [hs] at h; cases h

/-- A cycle of the pipeline is at most one step of the sequential machine. -/
theorem Refines.cycle {P : Params} {c t : State} (h : Refines c t) (hP : P.ucode = ucodeRef) (hpc0 : c.pc ≠ 0x0000#16)
    (hlost : redirectLost P c = false) (hstale : staleFetch P c = false) :
    Refines (cycle P c) t ∨ ∃ u, sequentialStep t = .next u ∧ Refines (cycle P c) u := by
  cases hm : (cycleMem P c).signals.memStall with
  | true => exact .inl (h.cycle_of_stall hm)
  | false =>
    have hgo := h.cycle_of_go hm hP hpc0 hlost hstale
    cases hv : c.mem.v with
    | true => exact .inr ⟨behindMem c t, h.sequentialStep_eq hv, hgo⟩
    | false =>
      rw [behindMem_of_bubble t hv] at hgo
      exact .inl hgo

/-- A run of the pipeline from a drained state refines a run of the sequential machine. -/
theorem refines_cycles {P : Params} {s : State} (hP : P.ucode = ucodeRef) (hs : Drained s) (n : Nat)
    (hgood : ∀ k < n, (cycles P k s).pc ≠ 0x0000#16 ∧ redirectLost P (cycles P k s) = false ∧
      staleFetch P (cycles P k s) = false) :
    ∃ (m : Nat) (t : State), sequentialRun m s = .next t ∧ Refines (cycles P n s) t := by
  induction n with
  | zero => exact ⟨0, s, rfl, refines_of_drained hs⟩
  | succ n ih =>
    obtain ⟨m, t, hrun, h⟩ := ih fun k hk => hgood k (Nat.lt_succ_of_lt hk)
    obtain ⟨hpc0, hlost, hstale⟩ := hgood n (Nat.lt_succ_self n)
    rw [cycles_succ_last]
    rcases h.cycle hP hpc0 hlost hstale with hstay | ⟨u, hstep, hgo⟩
    · exact ⟨m, t, hrun, hstay⟩
    · exact ⟨m + 1, u, sequentialRun_succ_last m hrun hstep, hgo⟩

/-- When a transfer has just redirected `pc`, the sequential machine stands at it, and SR holds the last result. -/
theorem Refines.of_redirect {P : Params} {c t : State} (hc : NoYoungerBehindTransfer c) (h : Refines (Machine.cycle P c) t)
    (hbr : (cycleMem P c).signals.vMemBrStall = true) (hm : (cycleMem P c).signals.memStall = false) :
    (Machine.cycle P c).pc = t.pc ∧ (Machine.cycle P c).memory = t.memory ∧ (Machine.cycle P c).mem.v = false := by
  obtain ⟨hv, hflag⟩ := (vMemBrStall_iff P c).mp hbr
  obtain ⟨hagex, hde⟩ := hc.2 hv hflag
  have hmem' : (Machine.cycle P c).mem.v = false := by rw [cycle_mem_of_go P hm]; exact hagex
  have hagex' : (Machine.cycle P c).agex.v = false := by rw [cycle_agex_v_of_go P hm, hde]; rfl
  refine ⟨?_, h.memory, hmem'⟩
  rw [h.pc (memPcMux_of_bubble hmem'), cycle_de_v_behind_mem P hm hde hbr, behindAgex_of_bubble t hagex',
    behindMem_of_bubble t hmem']
  rfl

/-- Settles O60: by the refinement up to the cycle that redirects `pc` to 0, after which the one cycle left writes back
what is in SR. -/
theorem pipelineMatchesSequentialMachine : Obligations.PipelineMatchesSequentialMachine := by
  unfold Obligations.PipelineMatchesSequentialMachine
  intro P s n hP hs hrun hne hz hmux hgood
  have hgood' : ∀ k ≤ n, _ := fun k hk => And.intro (hne k hk) (hgood k hk)
  obtain ⟨_, _, _, hn⟩ := refines_cycles hP hs n fun k hk => hgood' k hk.le
  obtain ⟨m, t, hseq, h⟩ := refines_cycles hP hs (n + 1) fun k hk => hgood' k (Nat.lt_succ_iff.mp hk)
  have hhost := hostRun_of_zero P (n + 1) (n + 2) hrun (Nat.lt_succ_self _)
    (fun k hk => hne k (Nat.lt_succ_iff.mp hk)) hz
  rw [cycles_succ_last] at hhost hz h
  rw [cycles_succ_last] at hhost
  replace hmux : memPcMux (cycles P n s).mem ≠ 0#2 := hmux
  have hm : (cycleMem P (cycles P n s)).signals.memStall = false := by
    by_contra hstall
    rw [cycle_pc_of_not_ldPc P (cycleLdPc_of_memStall P (Bool.eq_true_of_not_eq_false hstall))] at hz
    exact hne n le_rfl hz
  obtain ⟨hpc, hmemory, hbubble⟩ := h.of_redirect hn.younger (hn.vMemBrStall_of_mux hmux) hm
  refine ⟨m, t, hseq, hpc.symm.trans hz, ?_⟩
  rw [hhost]
  exact ⟨h.regs.symm, h.cc.symm, hmemory.symm.trans (cycle_memory_of_bubble P hbubble).symm, rfl⟩

end Sys2Proof.Machine
end
